-- ==== Sys2Proof/Word.lean ====
section
/-! DEFINITION. The 32-bit telemetry word, its bytes, and the lines of the input port. -/

namespace Sys2Proof

/-- A telemetry word: 32 bits, bit 0 the least significant (R7, R8). -/
abbrev Word := BitVec 32

/-- One byte of the byte view (R12). -/
abbrev Byte := BitVec 8

/-- What one line of the input port carries. `low` and `high` are the two states of R29; the other
three are the inputs that R171 and D12 refuse. -/
inductive Line where
  | low
  | high
  | undriven
  | unknown
  | highImpedance
deriving DecidableEq, Repr

/-- The line that carries a bit. -/
def Line.ofBit : Bool → Line
  | false => .low
  | true => .high

/-- The bit a line carries, where it is two-state (R171). -/
def Line.bit? : Line → Option Bool
  | .low => some false
  | .high => some true
  | .undriven => none
  | .unknown => none
  | .highImpedance => none

/-- The line is driven with a two-state value (R171). -/
def Line.twoState (l : Line) : Bool := l.bit?.isSome

end Sys2Proof
end

