-- ==== Sys2Proof/Config.lean ====
section
/-! DEFINITION. What the spec leaves open, and the data the host's conversion takes: the free value of
unsettled outputs, the parameter OOR_POLICY, and the numeric values PREP accepts.

The block has no other parameter (R7): the widths are fixed and stand in the types, and `T_PD` is
not modelled (R175, I7, log entry 2). -/

namespace Sys2Proof

/-- The k-th free draw of all 64 output bits at once (R173, I5): what the outputs carry while they have not
settled. It has no body, so nothing can be proved of its value. Log entry 4. -/
opaque Config.freeOutputs : Nat → BitVec 64

/-- OOR_POLICY (R84, D6): what PREP does with a finite value outside the domain. Always an argument. -/
inductive OorPolicy where
  | wrap
  | error
deriving DecidableEq, Repr

/-- The radix of a floating-point value. Log entry 5. -/
inductive Radix where
  | binary
  | decimal
deriving DecidableEq, Repr

/-- The radix as a number. -/
def Radix.base : Radix → Nat
  | .binary => 2
  | .decimal => 10

/-- A numeric value the host starts from (R81, R85): an integer, a finite floating-point value
(sign, significand, radix, exponent; the zero of either sign included), or a non-finite one. Log entry 5. -/
inductive Numeric where
  | integer (i : Int)
  | float (negative : Bool) (significand : Nat) (radix : Radix) (exponent : Int)
  | nan
  | posInf
  | negInf
deriving DecidableEq, Repr

end Sys2Proof
end

