-- ==== Sys2Proof/Syntax.lean ====
section
/-! DEFINITION. The instructions: the one row of the opcode table. -/

namespace Sys2Proof

/-- The block's operations. Every 32-bit value on `word_i` is an operand of the one operation (R66, R108);
the word has no opcode bits, so the operand is the whole word. Log entry 1. -/
inductive Instr where
  | decode (word : Word)
deriving DecidableEq, Repr

end Sys2Proof
end

