-- ==== Sys2Proof/WellFormed.lean ====
section
/-! DEFINITION. The checks: of an instruction (R67 has none), of the lines an input presents (R45, R171), and
of a record of fields before it is recombined (R109, R110). -/

namespace Sys2Proof

/-- No word is illegal, reserved or a hint (R67): every instruction is well formed. -/
def Instr.wellFormed : Instr → Bool
  | .decode _ => true

/-- An input is 32 lines (R29, R45). -/
def linesWidthOk (ls : List Line) : Bool := ls.length == 32

/-- Every line is driven with a two-state value (R171). -/
def linesTwoState (ls : List Line) : Bool := ls.all Line.twoState

/-- The two checks of an input together. -/
def linesWellFormed (ls : List Line) : Bool := linesWidthOk ls && linesTwoState ls

/-- A record of the six fields as plain numbers, as RECOMBINE takes it (R109). -/
structure EventFields where
  amplitude : Nat
  x_coordinate : Nat
  y_coordinate : Nat
  ccd_number : Nat
  fatal_flag : Nat
  warning_flag : Nat
deriving DecidableEq, Repr

/-- The bounds of R110. -/
def EventFields.inBounds (f : EventFields) : Bool :=
  decide (f.amplitude ≤ 16383) && decide (f.x_coordinate ≤ 127) && decide (f.y_coordinate ≤ 127)
    && decide (f.ccd_number ≤ 3) && decide (f.fatal_flag ≤ 1) && decide (f.warning_flag ≤ 1)

end Sys2Proof
end

