-- ==== Sys2Proof/Decode.lean ====
section
/-! DEFINITION. From the lines of the input port to the instruction, total on any list of lines and refusing by
name; and the encoder. Line k carries word bit k (R8, R45); there is one format of one length (R60, R68). -/

namespace Sys2Proof

/-- Why an input is no instruction. -/
inductive DecodeError where
  /-- Not 32 lines: there is one length (R68). A port of State always has 32. -/
  | wrongWidth
  /-- Some line is not driven with a two-state value (R171, D12). -/
  | notTwoState
deriving DecidableEq, Repr

/-- The number that two-state lines carry, line 0 the least significant. -/
def readLines : List Line → Option Nat
  | [] => some 0
  | l :: ls =>
    match l.bit?, readLines ls with
    | some b, some n => some (b.toNat + 2 * n)
    | _, _ => none

/-- The decoder table's one row (R66): every word matches. -/
def decodeMatch : Word := 0x00000000
/-- The mask of that row (R66). -/
def decodeMask : Word := 0x00000000

/-- The instruction of a word (R66, R108). -/
def decodeWord (w : Word) : Instr := .decode w

/-- The instruction that a list of lines presents. -/
def decodeLines (ls : List Line) : Except DecodeError Instr :=
  if linesWidthOk ls then
    match readLines ls with
    | some n => .ok (decodeWord (BitVec.ofNat 32 n))
    | none => .error .notTwoState
  else .error .wrongWidth

/-- `n` lines that carry the low bits of a number, line 0 the least significant. -/
def linesOfNat (n w : Nat) : List Line := (List.range n).map fun k => Line.ofBit (w.testBit k)

/-- The lines of an instruction: format EVT, `AAAAAAAAAAAAAAXXXXXXXYYYYYYYCCFW` (R60, R62), which is the operand word
itself. -/
def encode : Instr → List Line
  | .decode w => linesOfNat 32 w.toNat

/-- The input port when a word is driven on it. -/
def portOfWord (w : Word) : Vector Line 32 := ⟨⟨linesOfNat 32 w.toNat⟩, by simp [linesOfNat]⟩

/-- The instruction that a port presents. -/
def decodePort (v : Vector Line 32) : Except DecodeError Instr := decodeLines v.toList

/-- The instruction of a row of the opcode table, its bits numbered as the table numbers them, which is as the lines
are. The bits above `nbits` are 0. No instruction is longer than 32 bits. Log entry 6. -/
def decodeTableWord (nbits w : Nat) : Option Instr :=
  if nbits ≤ 32 then (decodeLines (linesOfNat 32 (w % 2 ^ nbits))).toOption else none

end Sys2Proof
end

