-- ==== Sys2Proof/Machine/State.lean ====
section
/-! DEFINITION. The state, the reasons a step or a host operation can stop, and the state at reset.

The block holds no architectural state (R20). State is the values on its ports at one instant (R29) and two
fields of the model's own, `settled` and `draws`. Nothing in it is stored by the hardware. Log entry 2. -/

namespace Sys2Proof.Machine

/-- The record DECODE yields (R108): six fields and the byte view, each as wide as its port (R29). -/
structure DecodedEvent where
  amplitude : BitVec 14
  x_coordinate : BitVec 7
  y_coordinate : BitVec 7
  ccd_number : BitVec 2
  fatal_flag : BitVec 1
  warning_flag : BitVec 1
  bytes : Vector Byte 4
deriving DecidableEq, Repr

/-- The output ports (R29), each byte of the byte view a port of its own. -/
inductive OutPort where
  | amplitude
  | x_coordinate
  | y_coordinate
  | ccd_number
  | fatal_flag
  | warning_flag
  | byte (k : Fin 4)
deriving DecidableEq, Repr

/-- The values on the ports at one instant. -/
structure State where
  /-- The input port (R29): what each of its 32 lines carries, line k for word bit k. -/
  word_i : Vector Line 32
  amplitude_o : BitVec 14
  x_coordinate_o : BitVec 7
  y_coordinate_o : BitVec 7
  ccd_number_o : BitVec 2
  fatal_flag_o : BitVec 1
  warning_flag_o : BitVec 1
  /-- The byte view, an array of four (R29, D4): element 0 is the word's most significant byte. -/
  bytes_o : Vector Byte 4
  /-- The model's own: `word_i` has been stable for at least `T_PD` since its last change (R173). -/
  settled : Bool
  /-- The model's own: how many free draws of the outputs have been made (I5). -/
  draws : Nat
deriving DecidableEq, Repr

/-- The errors. The block raises none (R140); no trap exists (R146). -/
inductive Fault where
  /-- OutOfRangeInput (R141): raised by the host's PREP only, under OOR_POLICY = ERROR, for a finite value outside the
  domain. The spec's own error, with no effect on the block. Safe. -/
  | outOfRangeInput
deriving DecidableEq, Repr

/-- The inputs the model gives no meaning. A refusal is no exception (R142). -/
inductive Refusal where
  /-- `exec` has no meaning for the instruction yet. No arm raises it in this model. Safe. -/
  | notModelled (mnemonic : String)
  /-- `step` and the host's sampling: the input port does not carry a two-state word (R171, I6). Also a joint step of several
  instances of which one has such an input (log entry 10). Safe. -/
  | inputNotDecodable (e : DecodeError)
  /-- PREP of NaN or of an infinity (R85, I4). Safe. -/
  | nonFiniteInput
  /-- RECOMBINE of a record outside the bounds of R110, for which R109 defines no word. Safe. -/
  | fieldOutOfBounds
  /-- A step of an instance that a system does not have; the model's own question. Safe. -/
  | noSuchInstance
deriving DecidableEq, Repr

/-- Sixty-four bits as an event: the fields from the upper half, the bytes from the lower. The two halves are apart, so
a free draw may be values no word decodes to (R173). -/
def DecodedEvent.ofBits (b : BitVec 64) : DecodedEvent where
  amplitude := b.extractLsb' 50 14
  x_coordinate := b.extractLsb' 43 7
  y_coordinate := b.extractLsb' 36 7
  ccd_number := b.extractLsb' 34 2
  fatal_flag := b.extractLsb' 33 1
  warning_flag := b.extractLsb' 32 1
  bytes := #v[b.extractLsb' 24 8, b.extractLsb' 16 8, b.extractLsb' 8 8, b.extractLsb' 0 8]

/-- The k-th free draw of the outputs (R173, I5). -/
def freeEvent (k : Nat) : DecodedEvent := DecodedEvent.ofBits (Config.freeOutputs k)

/-- The ports with given lines on the input and a given event on the outputs. -/
def State.withPorts (v : Vector Line 32) (e : DecodedEvent) (settled : Bool) (draws : Nat) : State where
  word_i := v
  amplitude_o := e.amplitude
  x_coordinate_o := e.x_coordinate
  y_coordinate_o := e.y_coordinate
  ccd_number_o := e.ccd_number
  fatal_flag_o := e.fatal_flag
  warning_flag_o := e.warning_flag
  bytes_o := e.bytes
  settled := settled
  draws := draws

/-- At power-up: no line is driven yet, so the outputs carry the first free draw (R31, R170, R171). Log entries
3 and 4. -/
def State.reset : State :=
  State.withPorts (Vector.replicate 32 Line.undriven) (freeEvent 0) false 1

end Sys2Proof.Machine
end

