-- ==== Sys2Proof/Machine/Operands.lean ====
section
/-! DEFINITION. How each output is taken from the word: masks and constant shifts (R63, R64, R101 to R105),
and the layout of the outputs in the word (R60, R101). -/

namespace Sys2Proof.Machine

/-- The mask of x_coordinate, bits 17..11 (R63). -/
def xCoordinateMask : Word := 0x0003F800
/-- The mask of y_coordinate, bits 10..4 (R63). -/
def yCoordinateMask : Word := 0x000007F0
/-- The mask of ccd_number, bits 3..2 (R63). -/
def ccdNumberMask : Word := 0x0000000C

/-- A field's value: `(word & mask) >> low_bit` (R64). -/
def maskShift (w mask : Word) (low : Nat) : Word := (w &&& mask) >>> low

/-- R102: `w >> 18`; no mask is needed. -/
def amplitudeOf (w : Word) : BitVec 14 := (w >>> 18).setWidth 14
/-- R103. -/
def xCoordinateOf (w : Word) : BitVec 7 := (maskShift w xCoordinateMask 11).setWidth 7
/-- R104. -/
def yCoordinateOf (w : Word) : BitVec 7 := (maskShift w yCoordinateMask 4).setWidth 7
/-- R105. -/
def ccdNumberOf (w : Word) : BitVec 2 := (maskShift w ccdNumberMask 2).setWidth 2

/-- Byte k of a word, byte 0 the least significant (R12). -/
def byteOf (k : Nat) (w : Word) : Byte := (w >>> (8 * k)).setWidth 8

/-- The little-endian byte sequence of a word (R12). -/
def littleEndianBytes (w : Word) : Vector Byte 4 := #v[byteOf 0 w, byteOf 1 w, byteOf 2 w, byteOf 3 w]

/-- The byte view: most significant byte first, whatever the host (R41, R101, C2). -/
def byteViewOf (w : Word) : Vector Byte 4 := #v[byteOf 3 w, byteOf 2 w, byteOf 1 w, byteOf 0 w]

/-- `w[hi:lo]` as an unsigned number (R9). -/
def slice (w : Word) (hi lo : Nat) : Nat := w.toNat / 2 ^ lo % 2 ^ (hi - lo + 1)

/-- The width of an output port (R29). -/
def OutPort.width : OutPort → Nat
  | .amplitude => 14
  | .x_coordinate => 7
  | .y_coordinate => 7
  | .ccd_number => 2
  | .fatal_flag => 1
  | .warning_flag => 1
  | .byte _ => 8

/-- The lowest word bit an output port carries (R60, R101). -/
def OutPort.low : OutPort → Nat
  | .amplitude => 18
  | .x_coordinate => 11
  | .y_coordinate => 4
  | .ccd_number => 2
  | .fatal_flag => 1
  | .warning_flag => 0
  | .byte k => 24 - 8 * k.val

/-- The mask of an output port's word bits, `(2^width - 1) << low_bit` (R63). -/
def OutPort.mask (p : OutPort) : Word := BitVec.ofNat 32 ((2 ^ p.width - 1) * 2 ^ p.low)

/-- The output port is one of the six fields, not a byte of the byte view. -/
def OutPort.isField : OutPort → Bool
  | .amplitude => true
  | .x_coordinate => true
  | .y_coordinate => true
  | .ccd_number => true
  | .fatal_flag => true
  | .warning_flag => true
  | .byte _ => false

/-- One output of an event, zero-extended onto a 32-bit carrier (R64). -/
def OutPort.read (e : DecodedEvent) : OutPort → Word
  | .amplitude => e.amplitude.setWidth 32
  | .x_coordinate => e.x_coordinate.setWidth 32
  | .y_coordinate => e.y_coordinate.setWidth 32
  | .ccd_number => e.ccd_number.setWidth 32
  | .fatal_flag => e.fatal_flag.setWidth 32
  | .warning_flag => e.warning_flag.setWidth 32
  | .byte k => e.bytes[k.val].setWidth 32

end Sys2Proof.Machine
end

