-- ==== Sys2Proof/Machine/Flags.lean ====
section
/-! DEFINITION. The two flag outputs (R23, R106, R107): decoded bits of the word. The block has no condition
codes, and it does not act on these. -/

namespace Sys2Proof.Machine

/-- The mask of fatal_flag, bit 1 (R63). -/
def fatalFlagMask : Word := 0x00000002
/-- The mask of warning_flag, bit 0 (R63). -/
def warningFlagMask : Word := 0x00000001

/-- R106. -/
def fatalFlagOf (w : Word) : BitVec 1 := (maskShift w fatalFlagMask 1).setWidth 1
/-- R107: no shift, the field starts at bit 0. -/
def warningFlagOf (w : Word) : BitVec 1 := (w &&& warningFlagMask).setWidth 1

end Sys2Proof.Machine
end

