-- ==== Sys2Proof/Machine/Ops.lean ====
section
/-! DEFINITION. The operations on the ports that the block and the host share: driving the input, holding it
stable, driving the outputs, sampling them (R155, R173).

The block has no memory and no registers to operate on (R21, R27). It takes no exception and returns from none (R146, R147):
there is no saved state, no vector and no mode. The one error of the spec is the host's, and `raiseOutOfRangeInput` is
all that raising it does. -/

namespace Sys2Proof.Machine

/-- DECODE as a function of the word, all its outputs at once (R108). -/
def decodeEvent (w : Word) : DecodedEvent where
  amplitude := amplitudeOf w
  x_coordinate := xCoordinateOf w
  y_coordinate := yCoordinateOf w
  ccd_number := ccdNumberOf w
  fatal_flag := fatalFlagOf w
  warning_flag := warningFlagOf w
  bytes := byteViewOf w

/-- What the output ports carry, as a record. -/
def State.event (s : State) : DecodedEvent where
  amplitude := s.amplitude_o
  x_coordinate := s.x_coordinate_o
  y_coordinate := s.y_coordinate_o
  ccd_number := s.ccd_number_o
  fatal_flag := s.fatal_flag_o
  warning_flag := s.warning_flag_o
  bytes := s.bytes_o

/-- `out <- v` on every output port at once (R11, R108). -/
def State.driveOutputs (e : DecodedEvent) (s : State) : State :=
  { s with
    amplitude_o := e.amplitude
    x_coordinate_o := e.x_coordinate
    y_coordinate_o := e.y_coordinate
    ccd_number_o := e.ccd_number
    fatal_flag_o := e.fatal_flag
    warning_flag_o := e.warning_flag
    bytes_o := e.bytes }

/-- The outputs take the next free draw (R173, I5). -/
def State.drawOutputs (s : State) : State :=
  { s with draws := s.draws + 1 }.driveOutputs (freeEvent s.draws)

/-- The host drives the lines of the input port. If they change, the outputs are unsettled and may be anything
(R173); driving what is there already is no change. Log entry 7. -/
def State.drive (v : Vector Line 32) (s : State) : State :=
  if v = s.word_i then s else { s with word_i := v, settled := false }.drawOutputs

/-- The host presents a word (R155). -/
def State.present (w : Word) (s : State) : State := s.drive (portOfWord w)

/-- The input has now been held stable for `T_PD` (R173). -/
def State.holdStable (s : State) : State := { s with settled := true }

/-- The host samples all outputs (R155). Settled outputs are read and nothing changes (R47). A sample taken
earlier is a free draw (R173, I5). With an input that is not two-state it has no meaning (R171, I6). -/
def State.sample (s : State) : Host.Outcome (DecodedEvent × State) Fault Refusal :=
  match decodePort s.word_i with
  | .error e => .refused (.inputNotDecodable e)
  | .ok _ => if s.settled then .next (s.event, s) else .next (freeEvent s.draws, s.drawOutputs)

/-- The host samples one output, zero-extended (R64, R155: any subset, in any order). -/
def State.samplePort (p : OutPort) (s : State) : Host.Outcome (Word × State) Fault Refusal :=
  match s.sample with
  | .next (e, t) => .next (p.read e, t)
  | .fault f => .fault f
  | .refused r => .refused r

/-- A reset of the surrounding system: the block has no reset input and no state, so nothing happens to
it (R31, R170). -/
def State.systemReset (s : State) : State := s

/-- Raising OutOfRangeInput (R141): no code, no payload, no word, no state saved. -/
def raiseOutOfRangeInput {α : Type} : Host.Outcome α Fault Refusal := .fault .outOfRangeInput

end Sys2Proof.Machine
end

