-- ==== Sys2Proof/Machine/Evt.lean ====
section
/-! DEFINITION. The meaning of the one operation, of format EVT. -/

namespace Sys2Proof.Machine

/-- DECODE (R108): the ten simultaneous assignments to the outputs, which read only the word. It raises nothing for
any word (R140), and changes nothing but the output ports. -/
def execDecode (w : Word) (s : State) : Host.Outcome State Fault Refusal :=
  .next (s.driveOutputs (decodeEvent w))

end Sys2Proof.Machine
end

