-- ==== Sys2Proof/Machine/Step.lean ====
section
/-! DEFINITION. One step of the block: the word on `word_i` is held stable for `T_PD`, and the outputs settle to
its decode (R155, R170, R173). There is no program counter and nothing is fetched (R22): the instruction is what stands on
the input port. -/

namespace Sys2Proof.Machine

/-- One settled evaluation. An input that is not a two-state word is refused (R171). Log entry 2. -/
def step (s : State) : Host.Outcome State Fault Refusal :=
  match decodePort s.word_i with
  | .ok i => exec i s.holdStable
  | .error e => .refused (.inputNotDecodable e)

/-- The host presents the table's word on the input port, its bits above `nbits` 0. Log entry 6. -/
def State.withFetchWord (s : State) (nbits w : Nat) : State :=
  s.present (BitVec.ofNat 32 (w % 2 ^ nbits))

end Sys2Proof.Machine
end

