-- ==== Sys2Proof/Machine/Prep.lean ====
section
/-! DEFINITION. PREP, the host's conversion of a numeric value to the word it drives (R80 to R87). No operation
of the block. -/

namespace Sys2Proof.Machine

/-- The magnitude of a float with its fraction cut off. -/
def truncMagnitude (significand : Nat) (radix : Radix) : Int → Nat
  | .ofNat e => significand * radix.base ^ e
  | .negSucc e => significand / radix.base ^ (e + 1)

/-- The integer part, rounded toward zero (R83, D7); none for a value that has none (R85). Log entry 8. -/
def trunc? : Numeric → Option Int
  | .integer i => some i
  | .float negative significand radix exponent =>
    let m : Int := truncMagnitude significand radix exponent
    some (if negative then -m else m)
  | .nan => none
  | .posInf => none
  | .negInf => none

/-- The number a finite value denotes, which the host never computes: `trunc?` is stated against it. -/
def numericValue? : Numeric → Option ℚ
  | .integer i => some i
  | .float negative significand radix exponent =>
    some ((if negative then -1 else 1) * significand * (radix.base : ℚ) ^ exponent)
  | .nan => none
  | .posInf => none
  | .negInf => none

/-- The domain, on the truncated value (R81, D8). Log entry 8. -/
def inDomain (i : Int) : Bool := decide (-2147483648 ≤ i) && decide (i ≤ 4294967295)

/-- `i mod 2^32` as a word (R82, R87). -/
def reduceWord (i : Int) : Word := BitVec.ofNat 32 (i % 4294967296).toNat

/-- PREP under a policy (R82, R84, R85). -/
def prep (policy : OorPolicy) (n : Numeric) : Host.Outcome Word Fault Refusal :=
  match trunc? n with
  | none => .refused .nonFiniteInput
  | some i =>
    if inDomain i then .next (reduceWord i)
    else
      match policy with
      | .error => raiseOutOfRangeInput
      | .wrap => .next (reduceWord i)

end Sys2Proof.Machine
end

