-- ==== Sys2Proof/Machine/Recombine.lean ====
section
/-! DEFINITION. RECOMBINE, the formula of the round-trip contract (R109). No operation of the block. -/

namespace Sys2Proof.Machine

/-- The six fields of an event as numbers. -/
def DecodedEvent.fields (e : DecodedEvent) : EventFields where
  amplitude := e.amplitude.toNat
  x_coordinate := e.x_coordinate.toNat
  y_coordinate := e.y_coordinate.toNat
  ccd_number := e.ccd_number.toNat
  fatal_flag := e.fatal_flag.toNat
  warning_flag := e.warning_flag.toNat

/-- The formula of R109 on numbers. -/
def recombineNat (f : EventFields) : Nat :=
  f.amplitude <<< 18 ||| f.x_coordinate <<< 11 ||| f.y_coordinate <<< 4 ||| f.ccd_number <<< 2
    ||| f.fatal_flag <<< 1 ||| f.warning_flag

/-- RECOMBINE of a record within the bounds of R110; R109 defines no word for another. Log entry 9. -/
def recombine (f : EventFields) : Host.Outcome Word Fault Refusal :=
  if f.inBounds then .next (BitVec.ofNat 32 (recombineNat f)) else .refused .fieldOutOfBounds

end Sys2Proof.Machine
end

