-- ==== Sys2Proof/Machine/HostSide.lean ====
section
/-! DEFINITION. The host beside the block (R155): the source's `decode` of a numeric value, and host programs as
sequences of operations (R69). The host's values stand outside State, since the block holds none of them. Log entry 9. -/

namespace Sys2Proof.Machine

/-- The source's `decode(number)`: PREP, present the word, hold it for `T_PD`, sample (R145, R155). OutOfRangeInput and
the refusals come before anything is driven (R141), so the block is then as it was. -/
def hostDecode (policy : OorPolicy) (n : Numeric) (s : State) : Host.Outcome (DecodedEvent × State) Fault Refusal :=
  match prep policy n with
  | .fault f => .fault f
  | .refused r => .refused r
  | .next w =>
    match step (s.present w) with
    | .next t => t.sample
    | .fault f => .fault f
    | .refused r => .refused r

/-- A value the host holds. -/
inductive HostValue where
  | word (w : Word)
  | event (e : DecodedEvent)
  | error (f : Fault)
deriving DecidableEq, Repr

/-- The block's ports and the host's values, newest first. -/
structure HostState where
  block : State
  values : List HostValue
deriving DecidableEq, Repr

/-- What a host can do (R155). `DECODE <word>` of R69 is `present`, `hold`, `sample`. -/
inductive HostOp where
  /-- `PREP <n>`: keeps the word, or the error. -/
  | prep (n : Numeric)
  /-- Drive a word. -/
  | present (w : Word)
  /-- Drive the newest value, if it is a word; after an error there is none and nothing is driven (R141). -/
  | presentNewest
  /-- Drive any lines, two-state or not. -/
  | driveLines (v : Vector Line 32)
  /-- Hold the input stable for `T_PD`: the block's step. -/
  | hold
  /-- Sample all outputs and keep the record. -/
  | sample
  /-- Sample one output and keep it. -/
  | samplePort (p : OutPort)
  /-- `RECOMBINE <e>` of a given record. -/
  | recombine (f : EventFields)
  /-- `RECOMBINE <e>` of the newest value, if it is an event; otherwise nothing is kept. -/
  | recombineNewest
  /-- The surrounding system is reset (R170). -/
  | systemReset
deriving DecidableEq, Repr

/-- The host keeps a word. -/
def HostState.keepWord (h : HostState) : Host.Outcome Word Fault Refusal → Host.Outcome HostState Fault Refusal
  | .next w => .next { h with values := .word w :: h.values }
  | .fault f => .next { h with values := .error f :: h.values }
  | .refused r => .refused r

/-- One operation of the host. -/
def hostStep (policy : OorPolicy) (op : HostOp) (h : HostState) : Host.Outcome HostState Fault Refusal :=
  match op with
  | .prep n => h.keepWord (prep policy n)
  | .present w => .next { h with block := h.block.present w }
  | .presentNewest =>
    match h.values with
    | .word w :: _ => .next { h with block := h.block.present w }
    | _ => .next h
  | .driveLines v => .next { h with block := h.block.drive v }
  | .hold =>
    match step h.block with
    | .next t => .next { h with block := t }
    | .fault f => .fault f
    | .refused r => .refused r
  | .sample =>
    match h.block.sample with
    | .next (e, t) => .next { block := t, values := .event e :: h.values }
    | .fault f => .fault f
    | .refused r => .refused r
  | .samplePort p =>
    match h.block.samplePort p with
    | .next (w, t) => .next { block := t, values := .word w :: h.values }
    | .fault f => .fault f
    | .refused r => .refused r
  | .recombine f => h.keepWord (recombine f)
  | .recombineNewest =>
    match h.values with
    | .event e :: _ => h.keepWord (recombine e.fields)
    | _ => .next h
  | .systemReset => .next { h with block := h.block.systemReset }

/-- A host program, stopping at the first fault or refusal. -/
def hostRun (policy : OorPolicy) : List HostOp → HostState → Host.Outcome HostState Fault Refusal
  | [], h => .next h
  | op :: ops, h =>
    match hostStep policy op h with
    | .next h' => hostRun policy ops h'
    | .fault f => .fault f
    | .refused r => .refused r

end Sys2Proof.Machine
end

