-- ==== Sys2Proof/Machine/Instances.lean ====
section
/-! DEFINITION. Several instances of the block (R118, R152): a list of port states that share nothing. A position
in the list is the model's way to name one; the instances have no identifiers. Log entry 10. -/

namespace Sys2Proof.Machine

/-- The block at position k settles; the others do nothing. -/
def stepAt (k : Nat) (insts : List State) : Host.Outcome (List State) Fault Refusal :=
  match insts[k]? with
  | none => .refused .noSuchInstance
  | some s =>
    match step s with
    | .next t => .next (insts.set k t)
    | .fault f => .fault f
    | .refused r => .refused r

/-- The host of the block at position k drives its input; the others do nothing. -/
def driveAt (k : Nat) (v : Vector Line 32) (insts : List State) : List State := insts.modify k (State.drive v)

/-- All blocks settle at once (R118). DESIGN CHOICE, log entry 10: if any one input is not two-state the whole joint
step is refused, the blocks that could settle included, with the reason of the first one that is refused. R171 refuses that
input and says nothing of the others, which still settle alone by `stepAt`. -/
def stepAll : List State → Host.Outcome (List State) Fault Refusal
  | [] => .next []
  | s :: insts =>
    match step s with
    | .next t =>
      match stepAll insts with
      | .next ts => .next (t :: ts)
      | .fault f => .fault f
      | .refused r => .refused r
    | .fault f => .fault f
    | .refused r => .refused r

end Sys2Proof.Machine
end

