-- ==== Sys2Proof/Safety.lean ====
section
/-! DEFINITION. What a safe run is, in the terms statements use. -/

namespace Sys2Proof.Machine

/-- The input port carries a two-state word, the host's duty of R155 and R171. -/
def State.inputReady (s : State) : Bool := linesTwoState s.word_i.toList

/-- The invariant of the ports (R20, R30, R173): outputs that have settled are the decode of the word on the
input port, and outputs never settle on an input that is not two-state. -/
def State.consistent (s : State) : Bool :=
  match decodePort s.word_i with
  | .ok (.decode w) => !s.settled || decide (s.event = decodeEvent w)
  | .error _ => !s.settled

end Sys2Proof.Machine
end

