-- ==== Sys2Proof/Certificates/Slice0/Obligations.lean ====
section
/-! DEFINITION. The statements for the provers. Fields are stated by R9's slices and by plain arithmetic, not by
the functions the meaning is written with. -/

open Sys2Proof Sys2Proof.Machine

/-- Lines written out by the pattern of R62, `AAAAAAAAAAAAAAXXXXXXXYYYYYYYCCFW`, bit 31 first. -/
def Sys2Proof.Machine.patternLines (a x y c f w : List Nat) : List Line :=
  ((a ++ x ++ y ++ c ++ f ++ w).map fun b => Line.ofBit (b == 1)).reverse

/-! ## Encoding -/

/-- Every instruction's lines decode to it, with its operand at every value (R60, R66, R68). -/
def Obligations.EncodedInstructionDecodesBack : Prop :=
  ∀ i : Instr, i.wellFormed = true → linesWellFormed (encode i) = true ∧ decodeLines (encode i) = .ok i

/-- The other direction: lines that decode are the lines of the instruction they decode to, so every word has one
meaning (R60, R66). -/
def Obligations.DecodedLinesAreTheEncoding : Prop :=
  ∀ (ls : List Line) (i : Instr), decodeLines ls = .ok i → i.wellFormed = true ∧ ls = encode i

/-- Which lines are refused, and by which name. Rests on the spec's decision D12 (R171): only two-state words are
admitted. The name `wrongWidth` is the model's (log entry 6). -/
def Obligations.LinesRefusedExactlyWhenNotTwoState : Prop :=
  ∀ ls : List Line,
    (decodeLines ls = .error .wrongWidth ↔ ls.length ≠ 32) ∧
    (decodeLines ls = .error .notTwoState ↔
      ls.length = 32 ∧ ∃ l ∈ ls, l = .undriven ∨ l = .unknown ∨ l = .highImpedance) ∧
    ((∃ i, decodeLines ls = .ok i) ↔ ls.length = 32 ∧ ∀ l ∈ ls, l = .low ∨ l = .high)

/-- Words written out bit by bit by the pattern of R62 decode to the instruction they stand for, with the fields
written: 123456, 0xDEADBEEF, bit 31 alone. -/
def Obligations.WrittenOutWordsDecode : Prop :=
  decodeLines (patternLines [0,0,0,0,0,0,0,0,0,0,0,0,0,0] [0,1,1,1,1,0,0] [0,1,0,0,1,0,0] [0,0] [0] [0])
    = .ok (.decode 0x0001E240) ∧
  decodeLines (patternLines [1,1,0,1,1,1,1,0,1,0,1,0,1,1] [0,1,1,0,1,1,1] [1,1,0,1,1,1,0] [1,1] [1] [1])
    = .ok (.decode 0xDEADBEEF) ∧
  decodeLines (patternLines [1,0,0,0,0,0,0,0,0,0,0,0,0,0] [0,0,0,0,0,0,0] [0,0,0,0,0,0,0] [0,0] [0] [0])
    = .ok (.decode 0x80000000)

/-- R66: one row, match 0 and mask 0; every word matches it and is an operand of DECODE. -/
def Obligations.EveryWordMatchesTheOneRow : Prop :=
  decodeMatch = 0 ∧ decodeMask = 0 ∧
  ∀ w : Word, w &&& decodeMask = decodeMatch ∧ decodePort (portOfWord w) = .ok (.decode w)

/-- R61: each of the word's 32 bits is carried by exactly one bit of exactly one field output. -/
def Obligations.EveryWordBitIsInExactlyOneField : Prop :=
  ∀ k < 32, ∃! q : OutPort × Nat, q.1.isField = true ∧ q.2 < q.1.width ∧
    ∀ (w : Word) (s : State), ∃ t, exec (.decode w) s = .next t ∧
      (q.1.read t.event).getLsbD q.2 = w.getLsbD k

/-! ## DECODE: results, completion and frame -/

/-- R101: the byte view, with its corner cases and example. -/
def Obligations.DecodeDrivesBytesMostSignificantFirst : Prop :=
  ∀ (w : Word) (s : State), ∃ t, exec (.decode w) s = .next t ∧
    t.bytes_o[0].toNat = slice w 31 24 ∧ t.bytes_o[1].toNat = slice w 23 16 ∧
    t.bytes_o[2].toNat = slice w 15 8 ∧ t.bytes_o[3].toNat = slice w 7 0 ∧
    t.bytes_o.toList = (littleEndianBytes w).toList.reverse ∧
    (w = 0 → t.bytes_o = #v[0, 0, 0, 0]) ∧
    (w = 0xFFFFFFFF → t.bytes_o = #v[255, 255, 255, 255]) ∧
    (w = 0x12345678 → t.bytes_o = #v[18, 52, 86, 120]) ∧
    (∀ k < 32, w = BitVec.ofNat 32 (2 ^ k) → ∀ j : Fin 4,
      t.bytes_o[j.val].toNat = if j.val = 3 - k / 8 then 2 ^ (k % 8) else 0)

/-- R102: the amplitude, with its corner cases and example. -/
def Obligations.DecodeDrivesAmplitude : Prop :=
  ∀ (w : Word) (s : State), ∃ t, exec (.decode w) s = .next t ∧
    t.amplitude_o.toNat = w.toNat / 2 ^ 18 ∧ t.amplitude_o.toNat = slice w 31 18 ∧
    (t.amplitude_o.toNat = 16383 ↔ ∀ k, 18 ≤ k → k < 32 → w.getLsbD k = true) ∧
    t.amplitude_o.toNat ≤ 16383 ∧
    (w.getLsbD 31 = true → 8192 ≤ t.amplitude_o.toNat) ∧
    (w = 0x80000000 → t.amplitude_o = 8192)

/-- R103, R104, R105: the pixel coordinates and the CCD number, with the masks, ranges, corner cases and examples;
the neighbours of a field do not affect it. -/
def Obligations.DecodeDrivesPixelAndSensor : Prop :=
  ∀ (w : Word) (s : State), ∃ t, exec (.decode w) s = .next t ∧
    (t.x_coordinate_o.toNat = slice w 17 11 ∧ t.x_coordinate_o.toNat = ((w &&& 0x0003F800) >>> 11).toNat ∧
      t.x_coordinate_o.toNat ≤ 127 ∧
      (∃ u, exec (.decode (w ^^^ 0x00040400)) s = .next u ∧ u.x_coordinate_o = t.x_coordinate_o) ∧
      (w = 0x00020000 → t.x_coordinate_o = 64) ∧ (w = 0x00000800 → t.x_coordinate_o = 1) ∧
      (w = 0x0003F800 → t.x_coordinate_o = 127)) ∧
    (t.y_coordinate_o.toNat = slice w 10 4 ∧ t.y_coordinate_o.toNat = ((w &&& 0x000007F0) >>> 4).toNat ∧
      t.y_coordinate_o.toNat ≤ 127 ∧
      (∃ u, exec (.decode (w ^^^ 0x00000808)) s = .next u ∧ u.y_coordinate_o = t.y_coordinate_o) ∧
      (w = 0x00000400 → t.y_coordinate_o = 64) ∧ (w = 0x00000010 → t.y_coordinate_o = 1) ∧
      (w = 0x000007F0 → t.y_coordinate_o = 127)) ∧
    (t.ccd_number_o.toNat = slice w 3 2 ∧ t.ccd_number_o.toNat = ((w &&& 0x0000000C) >>> 2).toNat ∧
      t.ccd_number_o.toNat ≤ 3 ∧
      (w = 0x00000004 → t.ccd_number_o = 1) ∧ (w = 0x00000008 → t.ccd_number_o = 2) ∧
      (w = 0x0000000C → t.ccd_number_o = 3))

/-- R106, R107: the two flags, with corner cases and examples. They stop nothing, and flipping a flag's word bit
changes none of the other fields. -/
def Obligations.DecodeDrivesFlagsAndIgnoresThem : Prop :=
  ∀ (w : Word) (s : State), ∃ t, exec (.decode w) s = .next t ∧
    t.fatal_flag_o.toNat = slice w 1 1 ∧ t.fatal_flag_o.toNat = ((w &&& 0x00000002) >>> 1).toNat ∧
    t.warning_flag_o.toNat = slice w 0 0 ∧ t.warning_flag_o.toNat = (w &&& 0x00000001).toNat ∧
    t.word_i = s.word_i ∧ t.settled = s.settled ∧ t.draws = s.draws ∧
    (∃ u, exec (.decode (w ^^^ 0x00000002)) s = .next u ∧ u.fatal_flag_o ≠ t.fatal_flag_o ∧
      u.event = { t.event with fatal_flag := u.fatal_flag_o, bytes := u.bytes_o }) ∧
    (∃ u, exec (.decode (w ^^^ 0x00000001)) s = .next u ∧ u.warning_flag_o ≠ t.warning_flag_o ∧
      u.event = { t.event with warning_flag := u.warning_flag_o, bytes := u.bytes_o }) ∧
    (w = 0x00000001 → t.fatal_flag_o = 0 ∧ t.warning_flag_o = 1) ∧
    (w = 0x00000002 → t.fatal_flag_o = 1 ∧ t.warning_flag_o = 0) ∧
    (w = 0x00000003 → t.fatal_flag_o = 1 ∧ t.warning_flag_o = 1) ∧
    (w = 0xFFFFFFFF → t.fatal_flag_o = 1)

/-- R108: DECODE completes for every word in every state, makes its ten assignments at once and leaves everything
else as it was. -/
def Obligations.DecodeAssignsAllOutputsAndNothingElse : Prop :=
  ∀ (w : Word) (s : State), exec (.decode w) s = .next { s with
    amplitude_o := BitVec.ofNat 14 (slice w 31 18)
    x_coordinate_o := BitVec.ofNat 7 (slice w 17 11)
    y_coordinate_o := BitVec.ofNat 7 (slice w 10 4)
    ccd_number_o := BitVec.ofNat 2 (slice w 3 2)
    fatal_flag_o := BitVec.ofNat 1 (slice w 1 1)
    warning_flag_o := BitVec.ofNat 1 (slice w 0 0)
    bytes_o := #v[BitVec.ofNat 8 (slice w 31 24), BitVec.ofNat 8 (slice w 23 16),
      BitVec.ofNat 8 (slice w 15 8), BitVec.ofNat 8 (slice w 7 0)] }

/-- The frame of DECODE: if it answers a next state, the input port and the model's two own fields are as before.
There is no register, flag, program counter or memory beside them (R20 to R27). -/
def Obligations.DecodeLeavesInputPortUnchanged : Prop :=
  ∀ (w : Word) (s t : State), exec (.decode w) s = .next t →
    t.word_i = s.word_i ∧ t.settled = s.settled ∧ t.draws = s.draws

/-- R64: every field output is the masked and shifted word, which is the unsigned slice, zero-extended. -/
def Obligations.FieldIsMaskedShiftedAndZeroExtended : Prop :=
  ∀ (p : OutPort) (w : Word) (s : State), p.isField = true → ∃ t, exec (.decode w) s = .next t ∧
    p.read t.event = (w &&& p.mask) >>> p.low ∧
    (p.read t.event).toNat = slice w (p.low + p.width - 1) p.low

/-- The masks of the six fields have the values R63 tabulates, any two are disjoint, and together they
cover the word. R63's values are the spec's derivation from R60. -/
def Obligations.FieldMasksPartitionTheWord : Prop :=
  OutPort.mask .amplitude = 0xFFFC0000 ∧ OutPort.mask .x_coordinate = xCoordinateMask ∧
  OutPort.mask .y_coordinate = yCoordinateMask ∧ OutPort.mask .ccd_number = ccdNumberMask ∧
  OutPort.mask .fatal_flag = fatalFlagMask ∧ OutPort.mask .warning_flag = warningFlagMask ∧
  xCoordinateMask = 0x0003F800 ∧ yCoordinateMask = 0x000007F0 ∧ ccdNumberMask = 0x0000000C ∧
  fatalFlagMask = 0x00000002 ∧ warningFlagMask = 0x00000001 ∧
  (∀ p q : OutPort, p.isField = true → q.isField = true → p ≠ q → p.mask &&& q.mask = 0) ∧
  OutPort.mask .amplitude ||| OutPort.mask .x_coordinate ||| OutPort.mask .y_coordinate
    ||| OutPort.mask .ccd_number ||| OutPort.mask .fatal_flag ||| OutPort.mask .warning_flag = 0xFFFFFFFF

/-- R140: no exception for any word, and no step faults. -/
def Obligations.BlockRaisesNoException : Prop :=
  (∀ (w : Word) (s : State), ∃ t, exec (.decode w) s = .next t) ∧
  (∀ (i : Instr) (s : State) (f : Fault), exec i s ≠ .fault f) ∧
  ∀ (s : State) (f : Fault), step s ≠ .fault f

/-- R67: no word is illegal, reserved or a hint, and every value of every field is legal: each combination of field
values within the bounds is what some word decodes to. -/
def Obligations.EveryWordAndEveryFieldValueIsLegal : Prop :=
  (∀ (w : Word) (s : State), (Instr.decode w).wellFormed = true ∧ decodePort (portOfWord w) = .ok (.decode w) ∧
    ∃ t, exec (.decode w) s = .next t ∧ t.event.fields.inBounds = true) ∧
  ∀ (f : EventFields) (s : State), f.inBounds = true →
    ∃ w t, exec (.decode w) s = .next t ∧ t.event.fields = f

/-! ## The correctness contract -/

/-- R109: the formula of RECOMBINE on records within the bounds, and the round trip for every word. -/
def Obligations.RecombineInvertsDecode : Prop :=
  (∀ f : EventFields, f.inBounds = true → ∃ u, recombine f = .next u ∧
    u.toNat = f.amplitude <<< 18 ||| f.x_coordinate <<< 11 ||| f.y_coordinate <<< 4 ||| f.ccd_number <<< 2
      ||| f.fatal_flag <<< 1 ||| f.warning_flag) ∧
  ∀ (w : Word) (s : State), ∃ t, exec (.decode w) s = .next t ∧ recombine t.event.fields = .next w

/-- R110: the bounds of the outputs. -/
def Obligations.DecodedFieldsAreInBounds : Prop :=
  ∀ (w : Word) (s : State), ∃ t, exec (.decode w) s = .next t ∧
    t.amplitude_o.toNat ≤ 16383 ∧ t.x_coordinate_o.toNat ≤ 127 ∧ t.y_coordinate_o.toNat ≤ 127 ∧
    t.ccd_number_o.toNat ≤ 3 ∧ t.fatal_flag_o.toNat ≤ 1 ∧ t.warning_flag_o.toNat ≤ 1 ∧
    ∀ b ∈ t.bytes_o.toList, b.toNat ≤ 255

/-- The byte view reversed is the little-endian byte sequence, and concatenated in index order it is the word. The second
half is the spec's own derivation (R111). -/
def Obligations.BytesReversedAreLittleEndianAndConcatenateToTheWord : Prop :=
  ∀ (w : Word) (s : State), ∃ t, exec (.decode w) s = .next t ∧
    t.bytes_o.toList.reverse.map BitVec.toNat = [slice w 7 0, slice w 15 8, slice w 23 16, slice w 31 24] ∧
    t.bytes_o[0] ++ t.bytes_o[1] ++ t.bytes_o[2] ++ t.bytes_o[3] = w

/-- The six fields and the words are in one-to-one correspondence, and the bytes follow from the fields: the spec's
derivation marked at R112. -/
def Obligations.DecodeIsABijection : Prop :=
  (∀ w u : Word, (decodeEvent w).fields = (decodeEvent u).fields → w = u) ∧
  (∀ f : EventFields, f.inBounds = true → ∃ w, recombine f = .next w ∧ (decodeEvent w).fields = f) ∧
  (∀ w u : Word, (decodeEvent w).fields = (decodeEvent u).fields → (decodeEvent w).bytes = (decodeEvent u).bytes)

/-- Flipping word bit k flips exactly the field bit and the byte bit that carry it, and no other output bit: the spec's
derivation marked at R114. -/
def Obligations.FlippingAWordBitFlipsOneFieldBitAndOneByteBit : Prop :=
  ∀ (w : Word) (s : State) (k : Nat), k < 32 →
    ∃ t u, exec (.decode w) s = .next t ∧ exec (.decode (w ^^^ BitVec.ofNat 32 (2 ^ k))) s = .next u ∧
      (∀ (p : OutPort) (j : Nat), j < p.width →
        ((p.read u.event).getLsbD j ≠ (p.read t.event).getLsbD j ↔ p.low + j = k)) ∧
      (∃! p : OutPort, p.isField = true ∧ p.low ≤ k ∧ k < p.low + p.width) ∧
      (∃! b : Fin 4, b.val = 3 - k / 8 ∧ OutPort.low (.byte b) + k % 8 = k)

/-- Which field bits each byte of the byte view holds: the table of R44, the spec's derivation. -/
def Obligations.BytesHoldTheFieldBitsOfTheOverlapTable : Prop :=
  ∀ (w : Word) (s : State), ∃ t, exec (.decode w) s = .next t ∧
    t.bytes_o[0] = t.amplitude_o.extractLsb' 6 8 ∧
    t.bytes_o[1] = t.amplitude_o.extractLsb' 0 6 ++ t.x_coordinate_o.extractLsb' 5 2 ∧
    t.bytes_o[2] = t.x_coordinate_o.extractLsb' 0 5 ++ t.y_coordinate_o.extractLsb' 4 3 ∧
    t.bytes_o[3] = t.y_coordinate_o.extractLsb' 0 4 ++ t.ccd_number_o ++ t.fatal_flag_o ++ t.warning_flag_o

/-! ## The block's step -/

/-- A step runs the instruction on the input port, once the input has been held stable; an input that is none is
refused. What a step is, is the model's choice (log entry 2). -/
def Obligations.StepRunsTheInstructionOnTheInputPort : Prop :=
  (∀ (s : State) (i : Instr), decodePort s.word_i = .ok i → i.wellFormed = true →
    step s = exec i { s with settled := true }) ∧
  ∀ (s : State) (e : DecodeError), decodePort s.word_i = .error e → step s = .refused (.inputNotDecodable e)

/-- A presented table word is what the next step runs (log entry 6). -/
def Obligations.FetchedTableWordIsWhatStepRuns : Prop :=
  ∀ (s : State) (nbits w : Nat), nbits ≤ 32 → ∃ i, decodeTableWord nbits w = some i ∧
    i = .decode (BitVec.ofNat 32 (w % 2 ^ nbits)) ∧
    step (s.withFetchWord nbits w) = exec i { s.withFetchWord nbits w with settled := true }

/-- Every step, from any state, leaves the ports consistent and settled on a two-state input: outputs that have settled
are the decode of the word on the input port (R20, R30, R173). -/
def Obligations.StepKeepsPortsConsistent : Prop :=
  ∀ s t : State, step s = .next t →
    t.consistent = true ∧ t.settled = true ∧ t.inputReady = true ∧ t.word_i = s.word_i ∧ t.draws = s.draws

/-- Whatever the host does, in whatever order, the ports stay consistent (R30, R155, R173). -/
def Obligations.HostProgramsKeepPortsConsistent : Prop :=
  ∀ (p : OorPolicy) (ops : List HostOp) (h h' : HostState), h.block.consistent = true →
    hostRun p ops h = .next h' → h'.block.consistent = true

/-- The ports are consistent at reset: nothing is driven and nothing has settled. That every line is undriven then is
the model's reading (log entry 3). -/
def Obligations.ResetPortsAreConsistentAndUndriven : Prop :=
  State.reset.consistent = true ∧ State.reset.settled = false ∧
  (∀ l ∈ State.reset.word_i.toList, l = .undriven) ∧
  step State.reset = .refused (.inputNotDecodable .notTwoState)

/-- A step answers exactly for two-state inputs. Other inputs are refused, by a step and by a sample: the spec's
decision D12 (R171). -/
def Obligations.OnlyTwoStateInputsAreAdmitted : Prop :=
  ∀ s : State,
    ((∃ t, step s = .next t) ↔ ∀ l ∈ s.word_i.toList, l = .low ∨ l = .high) ∧
    ((∃ l ∈ s.word_i.toList, l ≠ .low ∧ l ≠ .high) →
      step s = .refused (.inputNotDecodable .notTwoState) ∧
      s.sample = .refused (.inputNotDecodable .notTwoState))

/-- Outputs after a step are a function of the input port and of nothing else in the state (R20, R50). -/
def Obligations.SettledOutputsDependOnTheInputPortAlone : Prop :=
  ∀ s s' t : State, s.word_i = s'.word_i → step s = .next t →
    ∃ t', step s' = .next t' ∧ t'.event = t.event ∧ t'.settled = t.settled ∧ t'.word_i = t.word_i

/-- Applying the same word again gives the same outputs and changes nothing (R47). -/
def Obligations.SteppingAgainChangesNothing : Prop :=
  ∀ s t : State, step s = .next t → step t = .next t

/-- After any host program, if the outputs have settled, one word is on the input port and every output reads that
word's slice: no settled output mixes bits of two words. The spec's decisions D10 and D11 (R46, R173); the form of host
programs is the model's choice (log entry 9). -/
def Obligations.SettledOutputsAreOfOneWord : Prop :=
  ∀ (p : OorPolicy) (ops : List HostOp) (h h' : HostState), h.block.consistent = true →
    hostRun p ops h = .next h' → h'.block.settled = true →
    ∃ w, h'.block.word_i = portOfWord w ∧
      ∀ q : OutPort, (q.read h'.block.event).toNat = slice w (q.low + q.width - 1) q.low

/-! ## The host's interactions -/

/-- A sample of settled outputs answers the decode of the word on the input port and changes nothing; so does a sample of
any one of them, zero-extended (R47, R64, R155). -/
def Obligations.SettledSampleReadsTheDecodeAndChangesNothing : Prop :=
  ∀ (s : State) (w : Word), s.consistent = true → s.settled = true → s.word_i = portOfWord w →
    s.sample = .next (decodeEvent w, s) ∧
    ∀ p : OutPort, ∃ v, s.samplePort p = .next (v, s) ∧ v.toNat = slice w (p.low + p.width - 1) p.low

/-- A sample taken before the outputs have settled is the next free draw, and leaves the input port alone: the spec's
decision D11, in the form of log entry 4. Holds for every value of the draw and of the counter. -/
def Obligations.EarlySampleIsAFreeDraw : Prop :=
  ∀ (s : State) (w : Word), s.word_i = portOfWord w → s.settled = false →
    ∃ t, s.sample = .next (DecodedEvent.ofBits (Config.freeOutputs s.draws), t) ∧
      t.event = DecodedEvent.ofBits (Config.freeOutputs s.draws) ∧ t.word_i = s.word_i ∧ t.settled = false ∧
      t.draws = s.draws + 1

/-- A change of the input unsettles the outputs; held stable, they settle to the decode of the new word. These are the spec's
decisions D10 and D11 (R173). That unsettled outputs carry the draw `Config.freeOutputs` of the counter, and that the counter
then moves on, is the model's choice (log entry 4). That driving the same lines is no change is the model's reading (log
entry 7). Holds for every value of the draw and of the counter. -/
def Obligations.InputChangeUnsettlesUntilHeldStable : Prop :=
  ∀ (s : State) (v : Vector Line 32),
    (v = s.word_i → s.drive v = s) ∧
    (v ≠ s.word_i → (s.drive v).settled = false ∧ (s.drive v).word_i = v ∧
      (s.drive v).event = DecodedEvent.ofBits (Config.freeOutputs s.draws) ∧ (s.drive v).draws = s.draws + 1) ∧
    ∀ w : Word, v = portOfWord w →
      ∃ t, step (s.drive v) = .next t ∧ t.settled = true ∧ t.word_i = v ∧ t.event = decodeEvent w

/-- From power-up, a word driven and held stable is decoded, and a reset of the surrounding system, before or after,
changes nothing: the spec's decision D13 (R31, R170). -/
def Obligations.DecodeHoldsFromPowerUpAndAcrossSystemReset : Prop :=
  ∀ w : Word, ∃ t, step (State.reset.present w) = .next t ∧ t.event = decodeEvent w ∧
    step (State.reset.present w).systemReset = .next t ∧
    t.systemReset.sample = .next (decodeEvent w, t) ∧
    step t.systemReset = .next t

/-- Settled outputs change only when the input port changes, whatever the host does in one operation: the spec's decision
D5 (R24, R155). For an operation that drives the lines already there this rests on the model's reading that this is no
change (log entry 7), and the operations are the model's form of the host (log entry 9). -/
def Obligations.SettledOutputsChangeOnlyWithTheInput : Prop :=
  ∀ (p : OorPolicy) (op : HostOp) (h h' : HostState), h.block.consistent = true → h.block.settled = true →
    hostStep p op h = .next h' → h'.block.word_i = h.block.word_i → h'.block = h.block

/-! ## PREP -/

/-- R82: the word of a value in the domain under both policies, the two outcomes outside it, the refusal of a value with
no integer part, and the corner cases. -/
def Obligations.PrepReducesModuloTwoToThe32 : Prop :=
  (∀ (p : OorPolicy) (n : Numeric), trunc? n = none → prep p n = .refused .nonFiniteInput) ∧
  (∀ (p : OorPolicy) (n : Numeric) (i : Int), trunc? n = some i → -2147483648 ≤ i → i ≤ 4294967295 →
    ∃ w, prep p n = .next w ∧ (w.toNat : Int) = if 0 ≤ i then i else i + 4294967296) ∧
  (∀ (n : Numeric) (i : Int), trunc? n = some i → i < -2147483648 ∨ 4294967295 < i →
    prep .error n = .fault .outOfRangeInput ∧
    ∃ w, prep .wrap n = .next w ∧ (w.toNat : Int) = i % 4294967296) ∧
  (∀ p : OorPolicy, prep p (.integer (-1)) = .next 0xFFFFFFFF ∧
    prep p (.integer (-2147483648)) = .next 0x80000000 ∧ prep p (.integer 4294967295) = .next 0xFFFFFFFF ∧
    prep p (.integer 0) = .next 0 ∧ ∀ r e, prep p (.float true 0 r e) = .next 0)

/-- The integer part of every finite value is the value rounded toward zero: the spec's decision D7 (R83), which it marks as
from general knowledge (log entry 8). -/
def Obligations.TruncationRoundsTowardZero : Prop :=
  ∀ n : Numeric, trunc? n = (numericValue? n).map fun v => if 0 ≤ v then ⌊v⌋ else ⌈v⌉

/-- NaN and the infinities are refused under both policies, and so is the source's decode of them: the spec's decision D9
(R85, R142). -/
def Obligations.NonFiniteValuesAreRefused : Prop :=
  ∀ (p : OorPolicy) (n : Numeric), n = .nan ∨ n = .posInf ∨ n = .negInf →
    prep p n = .refused .nonFiniteInput ∧ ∀ s : State, hostDecode p n s = .refused .nonFiniteInput

/-- Two integers of the domain give one word exactly when they agree modulo 2^32, and these are the preimages of each word:
the spec's derivation at R86. -/
def Obligations.PrepPreimagesOfEveryWord : Prop :=
  ∀ p : OorPolicy,
    (∀ i j : Int, inDomain i = true → inDomain j = true →
      (prep p (.integer i) = prep p (.integer j) ↔ i % 4294967296 = j % 4294967296)) ∧
    (∀ (w : Word) (i : Int), inDomain i = true →
      (prep p (.integer i) = .next w ↔
        i = w.toNat ∨ (2147483648 ≤ w.toNat ∧ i = (w.toNat : Int) - 4294967296))) ∧
    ∀ w : Word, inDomain w.toNat = true ∧ prep p (.integer w.toNat) = .next w

/-- OutOfRangeInput is raised by PREP exactly for a finite value outside the domain under OOR_POLICY = ERROR, and the source's
decode ends in it exactly when PREP does (R141). The last two clauses are about host programs, whose form is the model's
choice (log entry 9): the program keeps the error as a value, nothing is driven if the host then presents what it has, and
no operation of a program, PREP included, ends in a fault. -/
def Obligations.OutOfRangeInputIsRaisedByPrepOnlyAndTouchesNothing : Prop :=
  (∀ (p : OorPolicy) (n : Numeric) (f : Fault), prep p n = .fault f ↔
    f = .outOfRangeInput ∧ p = .error ∧ ∃ i, trunc? n = some i ∧ (i < -2147483648 ∨ 4294967295 < i)) ∧
  (∀ (p : OorPolicy) (n : Numeric) (f : Fault) (s : State), hostDecode p n s = .fault f ↔ prep p n = .fault f) ∧
  (∀ (n : Numeric) (i : Int) (h : HostState), trunc? n = some i → i < -2147483648 ∨ 4294967295 < i →
    hostRun .error [.prep n, .presentNewest] h
      = .next { h with values := .error .outOfRangeInput :: h.values }) ∧
  ∀ (p : OorPolicy) (op : HostOp) (h : HostState) (f : Fault), hostStep p op h ≠ .fault f

/-- R145: the source's decode of a finite value ends in a full record, the decode of PREP's word, or in OutOfRangeInput, and
in nothing else. -/
def Obligations.HostDecodeEndsInRecordOrError : Prop :=
  ∀ (p : OorPolicy) (n : Numeric) (i : Int) (s : State), trunc? n = some i →
    (p = .error ∧ inDomain i = false → hostDecode p n s = .fault .outOfRangeInput) ∧
    (p = .wrap ∨ inDomain i = true → ∃ w t, prep p n = .next w ∧
      hostDecode p n s = .next (decodeEvent w, t) ∧ t.word_i = portOfWord w ∧ t.event = decodeEvent w)

/-- The host program PREP, present, hold, sample is the source's decode. The programs' form is the model's (log
entry 9). -/
def Obligations.HostProgramRunsTheSourcesDecode : Prop :=
  ∀ (p : OorPolicy) (n : Numeric) (w : Word) (s : State) (vs : List HostValue), prep p n = .next w →
    ∃ t, hostDecode p n s = .next (decodeEvent w, t) ∧
      hostRun p [.prep n, .presentNewest, .hold, .sample] { block := s, values := vs }
        = .next { block := t, values := .event (decodeEvent w) :: .word w :: vs }

/-- The source's first example: decode(-1) and decode(4294967295) give the same record, with these values, in any state
and under either policy (V1, V3). -/
def Obligations.MinusOneDecodesAsAllOnes : Prop :=
  ∀ (p : OorPolicy) (s : State), ∃ t,
    hostDecode p (.integer (-1)) s = .next (⟨16383, 127, 127, 3, 1, 1, #v[255, 255, 255, 255]⟩, t) ∧
    hostDecode p (.integer 4294967295) s = .next (⟨16383, 127, 127, 3, 1, 1, #v[255, 255, 255, 255]⟩, t)

/-! ## Several instances -/

/-- R118: any number of decodes may happen at once, and each instance does what it would do alone; when one settles, the
others are as they were. -/
def Obligations.InstancesDecodeIndependently : Prop :=
  (∀ insts insts' : List State, stepAll insts = .next insts' →
    insts'.length = insts.length ∧
    ∀ (k : Nat) (s : State), insts[k]? = some s → ∃ t, insts'[k]? = some t ∧ step s = .next t) ∧
  (∀ insts : List State, (∀ s ∈ insts, s.inputReady = true) → ∃ insts', stepAll insts = .next insts') ∧
  ∀ (k : Nat) (insts insts' : List State), stepAt k insts = .next insts' →
    (∀ j, j ≠ k → insts'[j]? = insts[j]?) ∧
    ∃ s t, insts[k]? = some s ∧ step s = .next t ∧ insts'[k]? = some t

/-- Decodes of two instances, and the driving of one beside the decode of the other, commute: no ordering is needed
(R50). -/
def Obligations.DecodesOfDifferentInstancesCommute : Prop :=
  ∀ (j k : Nat) (insts a b : List State), j ≠ k → stepAt j insts = .next a → stepAt k insts = .next b →
    (∃ c, stepAt k a = .next c ∧ stepAt j b = .next c) ∧
    ∀ v : Vector Line 32, stepAt j (driveAt k v insts) = .next (driveAt k v a)
end

