-- ==== Sys2Proof/Laws/Decode.lean ====
section
/-! SUPPORT. What reading lines answers: the number of two-state lines, and nothing for others. -/

namespace Sys2Proof

@[simp] theorem Line.bit?_ofBit (b : Bool) : (Line.ofBit b).bit? = some b := by cases b <;> rfl

/-- A line with a bit is that bit's line. -/
theorem Line.eq_ofBit {l : Line} {b : Bool} (h : l.bit? = some b) : l = Line.ofBit b := by
  cases l <;> simp [Line.bit?] at h
  all_goals
    subst h
    rfl

@[simp] theorem linesOfNat_length (n w : Nat) : (linesOfNat n w).length = n := by simp [linesOfNat]

theorem linesOfNat_succ (n w : Nat) :
    linesOfNat (n + 1) w = Line.ofBit (w.testBit 0) :: linesOfNat n (w / 2) := by
  simp [linesOfNat, List.range_succ_eq_map, Function.comp_def, Nat.testBit_succ]

theorem readLines_cons (l : Line) (ls : List Line) (b : Bool) (n : Nat) (hl : l.bit? = some b)
    (hn : readLines ls = some n) : readLines (l :: ls) = some (b.toNat + 2 * n) := by
  simp [readLines, hl, hn]

/-- Lines that carry a number's low bits read as those bits. -/
theorem readLines_linesOfNat (n : Nat) : ∀ w, readLines (linesOfNat n w) = some (w % 2 ^ n) := by
  induction n with
  | zero => intro w; simp [linesOfNat, readLines, Nat.mod_one]
  | succ n ih =>
    intro w
    rw [linesOfNat_succ, readLines_cons _ _ _ _ (Line.bit?_ofBit _) (ih (w / 2))]
    congr 1
    rw [Nat.testBit_zero, Nat.pow_succ', Nat.mod_mul]
    rcases Nat.mod_two_eq_zero_or_one w with h | h <;> simp [h]

/-- Lines that read as a number are that number's lines, and the number fits them. -/
theorem eq_linesOfNat_of_readLines : ∀ (ls : List Line) (n : Nat), readLines ls = some n →
    ls = linesOfNat ls.length n ∧ n < 2 ^ ls.length := by
  intro ls
  induction ls with
  | nil => intro n h; simp [readLines] at h; subst h; simp [linesOfNat]
  | cons l ls ih =>
    intro n h
    cases hb : l.bit? with
    | none => simp [readLines, hb] at h
    | some b =>
      cases hm : readLines ls with
      | none => simp [readLines, hb, hm] at h
      | some m =>
        have hn : b.toNat + 2 * m = n := by simpa [readLines, hb, hm] using h
        obtain ⟨h1, h2⟩ := ih m hm
        have hbit : n.testBit 0 = b ∧ n / 2 = m := by
          subst hn
          cases b <;> simp
          omega
        constructor
        · rw [List.length_cons, linesOfNat_succ, hbit.1, hbit.2, ← h1, ← Line.eq_ofBit hb]
        · rw [List.length_cons, Nat.pow_succ]
          have := Bool.toNat_le b
          omega

/-- Lines read as a number exactly when each is two-state. -/
theorem readLines_isSome (ls : List Line) : (readLines ls).isSome = linesTwoState ls := by
  induction ls with
  | nil => rfl
  | cons l ls ih =>
    rw [linesTwoState, List.all_cons, ← linesTwoState, ← ih, Line.twoState, readLines]
    cases l.bit? <;> cases readLines ls <;> rfl

/-- Everything decoding lines can answer. -/
theorem decodeLines_cases (ls : List Line) :
    (ls.length ≠ 32 ∧ decodeLines ls = .error .wrongWidth) ∨
    (ls.length = 32 ∧ linesTwoState ls = false ∧ decodeLines ls = .error .notTwoState) ∨
    (∃ n, ls.length = 32 ∧ linesTwoState ls = true ∧ readLines ls = some n
      ∧ decodeLines ls = .ok (.decode (BitVec.ofNat 32 n))) := by
  by_cases hw : ls.length = 32
  · cases hr : readLines ls with
    | none => exact .inr (.inl ⟨hw, by simp [← readLines_isSome, hr], by simp [decodeLines, linesWidthOk, hw, hr]⟩)
    | some n =>
      exact .inr (.inr ⟨n, hw, by simp [← readLines_isSome, hr], rfl,
        by simp [decodeLines, linesWidthOk, hw, hr, decodeWord]⟩)
  · exact .inl ⟨hw, by simp [decodeLines, linesWidthOk, hw]⟩

/-- The port on which a word is driven presents that word. -/
@[simp] theorem decodePort_portOfWord (w : Word) : decodePort (portOfWord w) = .ok (.decode w) := by
  have h : (portOfWord w).toList = linesOfNat 32 w.toNat := rfl
  rw [decodePort, h, decodeLines, readLines_linesOfNat, Nat.mod_eq_of_lt w.isLt]
  simp [linesWidthOk, decodeWord]

/-- Whatever a port presents as a word is that word's port. -/
theorem eq_portOfWord_of_decodePort {v : Vector Line 32} {w : Word} (h : decodePort v = .ok (.decode w)) :
    v = portOfWord w := by
  rcases decodeLines_cases v.toList with ⟨h1, -⟩ | ⟨-, -, h3⟩ | ⟨n, h1, -, h3, h4⟩
  · simp at h1
  · rw [decodePort, h3] at h; cases h
  · rw [decodePort, h4] at h
    have hw : BitVec.ofNat 32 n = w := by injection h with h; injection h
    obtain ⟨e, b⟩ := eq_linesOfNat_of_readLines _ n h3
    rw [h1] at e b
    have hn : w.toNat = n := by rw [← hw]; exact Nat.mod_eq_of_lt b
    apply Vector.toList_inj.mp
    rw [e, ← hn]
    rfl

/-- A port never has the wrong width. -/
theorem decodePort_error {v : Vector Line 32} {e : DecodeError} (h : decodePort v = .error e) :
    e = .notTwoState ∧ linesTwoState v.toList = false := by
  rcases decodeLines_cases v.toList with ⟨h1, -⟩ | ⟨-, h2, h3⟩ | ⟨n, -, -, -, h4⟩
  · simp at h1
  · rw [decodePort, h3] at h; exact ⟨by injection h with h; exact h.symm, h2⟩
  · rw [decodePort, h4] at h; cases h

/-- A port that presents a word has two-state lines only. -/
theorem decodePort_ok {v : Vector Line 32} {i : Instr} (h : decodePort v = .ok i) :
    linesTwoState v.toList = true := by
  rcases decodeLines_cases v.toList with ⟨h1, -⟩ | ⟨-, -, h3⟩ | ⟨n, -, h2, -, -⟩
  · simp at h1
  · rw [decodePort, h3] at h; cases h
  · exact h2

end Sys2Proof
end

