-- ==== Sys2Proof/Laws/Fields.lean ====
section
/-! SUPPORT. Each output of the word, bit by bit: the lemmas from which the statements about fields follow. -/

namespace Sys2Proof.Machine

theorem amplitudeOf_bit (w : Word) (j : Nat) :
    (amplitudeOf w).getLsbD j = (decide (j < 14) && w.getLsbD (18 + j)) := by
  simp [amplitudeOf]

/-- A mask of `n` ones at `low`, taken off and shifted down, keeps the bits of the field. -/
theorem maskShift_bit (w : Word) (low n j : Nat) (h : low + n ≤ 32) :
    (maskShift w (BitVec.ofNat 32 ((2 ^ n - 1) * 2 ^ low)) low).getLsbD j
      = (decide (j < n) && w.getLsbD (low + j)) := by
  rw [maskShift, BitVec.getLsbD_ushiftRight, BitVec.getLsbD_and, BitVec.getLsbD_ofNat,
    Nat.testBit_mul_two_pow, Nat.testBit_two_pow_sub_one]
  by_cases hj : j < n
  · have h32 : low + j < 32 := by omega
    simp [hj, h32]
  · simp [hj]

theorem xCoordinateOf_bit (w : Word) (j : Nat) :
    (xCoordinateOf w).getLsbD j = (decide (j < 7) && w.getLsbD (11 + j)) := by
  have h := maskShift_bit w 11 7 j (by decide)
  rw [xCoordinateOf, BitVec.getLsbD_setWidth, show xCoordinateMask = BitVec.ofNat 32 ((2 ^ 7 - 1) * 2 ^ 11) from rfl, h]
  by_cases hj : j < 7 <;> simp [hj]

theorem yCoordinateOf_bit (w : Word) (j : Nat) :
    (yCoordinateOf w).getLsbD j = (decide (j < 7) && w.getLsbD (4 + j)) := by
  have h := maskShift_bit w 4 7 j (by decide)
  rw [yCoordinateOf, BitVec.getLsbD_setWidth, show yCoordinateMask = BitVec.ofNat 32 ((2 ^ 7 - 1) * 2 ^ 4) from rfl, h]
  by_cases hj : j < 7 <;> simp [hj]

theorem ccdNumberOf_bit (w : Word) (j : Nat) :
    (ccdNumberOf w).getLsbD j = (decide (j < 2) && w.getLsbD (2 + j)) := by
  have h := maskShift_bit w 2 2 j (by decide)
  rw [ccdNumberOf, BitVec.getLsbD_setWidth, show ccdNumberMask = BitVec.ofNat 32 ((2 ^ 2 - 1) * 2 ^ 2) from rfl, h]
  by_cases hj : j < 2 <;> simp [hj]

theorem fatalFlagOf_bit (w : Word) (j : Nat) :
    (fatalFlagOf w).getLsbD j = (decide (j < 1) && w.getLsbD (1 + j)) := by
  have h := maskShift_bit w 1 1 j (by decide)
  rw [fatalFlagOf, BitVec.getLsbD_setWidth, show fatalFlagMask = BitVec.ofNat 32 ((2 ^ 1 - 1) * 2 ^ 1) from rfl, h]
  by_cases hj : j < 1 <;> simp [hj]

theorem warningFlagOf_bit (w : Word) (j : Nat) :
    (warningFlagOf w).getLsbD j = (decide (j < 1) && w.getLsbD j) := by
  have h := maskShift_bit w 0 1 j (by decide)
  have e : warningFlagOf w = (maskShift w (BitVec.ofNat 32 ((2 ^ 1 - 1) * 2 ^ 0)) 0).setWidth 1 := rfl
  rw [e, BitVec.getLsbD_setWidth, h]
  by_cases hj : j < 1 <;> simp [hj]

theorem byteOf_bit (k : Nat) (w : Word) (j : Nat) :
    (byteOf k w).getLsbD j = (decide (j < 8) && w.getLsbD (8 * k + j)) := by
  simp [byteOf]

/-- Element k of the byte view is byte `3 - k` of the word. -/
theorem byteViewOf_get (w : Word) (k : Fin 4) : (byteViewOf w)[k.val] = byteOf (3 - k.val) w := by
  fin_cases k <;> rfl

/-- Bit j of an output is word bit `low + j`, and no bit above the output's width is set. -/
theorem OutPort.read_bit (p : OutPort) (w : Word) (j : Nat) :
    (p.read (decodeEvent w)).getLsbD j = (decide (j < p.width) && w.getLsbD (p.low + j)) := by
  cases p with
  | byte k =>
    have hk : 8 * (3 - k.val) = 24 - 8 * k.val := by omega
    simp only [OutPort.read, decodeEvent, OutPort.low, OutPort.width, BitVec.getLsbD_setWidth, byteViewOf_get,
      byteOf_bit, hk]
    rw [← Bool.and_assoc, ← Bool.decide_and]
    congr 2
    apply propext
    omega
  | amplitude | x_coordinate | y_coordinate | ccd_number | fatal_flag | warning_flag =>
    simp only [OutPort.read, decodeEvent, OutPort.low, OutPort.width, BitVec.getLsbD_setWidth, amplitudeOf_bit,
      xCoordinateOf_bit, yCoordinateOf_bit, ccdNumberOf_bit, fatalFlagOf_bit, warningFlagOf_bit, Nat.zero_add]
    rw [← Bool.and_assoc, ← Bool.decide_and]
    congr 2
    apply propext
    omega

/-- A number of `n` bits whose bits are those of a word from `lo` up is the word's slice. -/
theorem toNat_eq_slice {n : Nat} (v : BitVec n) (w : Word) (hi lo : Nat) (hn : hi - lo + 1 = n)
    (h : ∀ j, v.getLsbD j = (decide (j < n) && w.getLsbD (lo + j))) : v.toNat = slice w hi lo := by
  apply Nat.eq_of_testBit_eq
  intro j
  have hj := h j
  rw [BitVec.getLsbD, BitVec.getLsbD] at hj
  rw [hj, slice, hn, Nat.testBit_mod_two_pow, Nat.testBit_div_two_pow]
  simp [Nat.add_comm]

end Sys2Proof.Machine
end

