-- ==== Sys2Proof/Laws/Prep.lean ====
section
/-! SUPPORT. What PREP answers, said once. -/

namespace Sys2Proof.Machine

theorem inDomain_iff (i : Int) : inDomain i = true ↔ -2147483648 ≤ i ∧ i ≤ 4294967295 := by
  simp [inDomain]

/-- The word of a reduced integer, as a number. -/
theorem reduceWord_toNat (i : Int) : ((reduceWord i).toNat : Int) = i % 4294967296 := by
  have h0 : 0 ≤ i % 4294967296 := Int.emod_nonneg _ (by decide)
  have h1 : i % 4294967296 < 4294967296 := Int.emod_lt_of_pos _ (by decide)
  have hm : (i % 4294967296).toNat % 2 ^ 32 = (i % 4294967296).toNat := Nat.mod_eq_of_lt (by omega)
  rw [reduceWord, BitVec.toNat_ofNat, hm]
  omega

theorem prep_nonfinite {n : Numeric} (p : OorPolicy) (h : trunc? n = none) :
    prep p n = .refused .nonFiniteInput := by simp [prep, h]

theorem prep_inDomain {n : Numeric} {i : Int} (p : OorPolicy) (h : trunc? n = some i) (hd : inDomain i = true) :
    prep p n = .next (reduceWord i) := by simp [prep, h, hd]

theorem prep_outside_wrap {n : Numeric} {i : Int} (h : trunc? n = some i) (hd : inDomain i = false) :
    prep .wrap n = .next (reduceWord i) := by simp [prep, h, hd]

theorem prep_outside_error {n : Numeric} {i : Int} (h : trunc? n = some i) (hd : inDomain i = false) :
    prep .error n = .fault .outOfRangeInput := by simp [prep, h, hd, raiseOutOfRangeInput]

end Sys2Proof.Machine
end

