-- ==== Sys2Proof/Laws/State.lean ====
section
/-! SUPPORT. One lemma per field per update of State, each true by unfolding the update. -/

namespace Sys2Proof.Machine

@[simp] theorem State.driveOutputs_word_i (e : DecodedEvent) (s : State) : (s.driveOutputs e).word_i = s.word_i := rfl
@[simp] theorem State.driveOutputs_amplitude_o (e : DecodedEvent) (s : State) : (s.driveOutputs e).amplitude_o = e.amplitude := rfl
@[simp] theorem State.driveOutputs_x_coordinate_o (e : DecodedEvent) (s : State) : (s.driveOutputs e).x_coordinate_o = e.x_coordinate := rfl
@[simp] theorem State.driveOutputs_y_coordinate_o (e : DecodedEvent) (s : State) : (s.driveOutputs e).y_coordinate_o = e.y_coordinate := rfl
@[simp] theorem State.driveOutputs_ccd_number_o (e : DecodedEvent) (s : State) : (s.driveOutputs e).ccd_number_o = e.ccd_number := rfl
@[simp] theorem State.driveOutputs_fatal_flag_o (e : DecodedEvent) (s : State) : (s.driveOutputs e).fatal_flag_o = e.fatal_flag := rfl
@[simp] theorem State.driveOutputs_warning_flag_o (e : DecodedEvent) (s : State) : (s.driveOutputs e).warning_flag_o = e.warning_flag := rfl
@[simp] theorem State.driveOutputs_bytes_o (e : DecodedEvent) (s : State) : (s.driveOutputs e).bytes_o = e.bytes := rfl
@[simp] theorem State.driveOutputs_settled (e : DecodedEvent) (s : State) : (s.driveOutputs e).settled = s.settled := rfl
@[simp] theorem State.driveOutputs_draws (e : DecodedEvent) (s : State) : (s.driveOutputs e).draws = s.draws := rfl

@[simp] theorem State.drawOutputs_word_i (s : State) : (s.drawOutputs).word_i = s.word_i := rfl
@[simp] theorem State.drawOutputs_amplitude_o (s : State) : (s.drawOutputs).amplitude_o = (freeEvent s.draws).amplitude := rfl
@[simp] theorem State.drawOutputs_x_coordinate_o (s : State) : (s.drawOutputs).x_coordinate_o = (freeEvent s.draws).x_coordinate := rfl
@[simp] theorem State.drawOutputs_y_coordinate_o (s : State) : (s.drawOutputs).y_coordinate_o = (freeEvent s.draws).y_coordinate := rfl
@[simp] theorem State.drawOutputs_ccd_number_o (s : State) : (s.drawOutputs).ccd_number_o = (freeEvent s.draws).ccd_number := rfl
@[simp] theorem State.drawOutputs_fatal_flag_o (s : State) : (s.drawOutputs).fatal_flag_o = (freeEvent s.draws).fatal_flag := rfl
@[simp] theorem State.drawOutputs_warning_flag_o (s : State) : (s.drawOutputs).warning_flag_o = (freeEvent s.draws).warning_flag := rfl
@[simp] theorem State.drawOutputs_bytes_o (s : State) : (s.drawOutputs).bytes_o = (freeEvent s.draws).bytes := rfl
@[simp] theorem State.drawOutputs_settled (s : State) : (s.drawOutputs).settled = s.settled := rfl
@[simp] theorem State.drawOutputs_draws (s : State) : (s.drawOutputs).draws = s.draws + 1 := rfl

@[simp] theorem State.holdStable_word_i (s : State) : (s.holdStable).word_i = s.word_i := rfl
@[simp] theorem State.holdStable_amplitude_o (s : State) : (s.holdStable).amplitude_o = s.amplitude_o := rfl
@[simp] theorem State.holdStable_x_coordinate_o (s : State) : (s.holdStable).x_coordinate_o = s.x_coordinate_o := rfl
@[simp] theorem State.holdStable_y_coordinate_o (s : State) : (s.holdStable).y_coordinate_o = s.y_coordinate_o := rfl
@[simp] theorem State.holdStable_ccd_number_o (s : State) : (s.holdStable).ccd_number_o = s.ccd_number_o := rfl
@[simp] theorem State.holdStable_fatal_flag_o (s : State) : (s.holdStable).fatal_flag_o = s.fatal_flag_o := rfl
@[simp] theorem State.holdStable_warning_flag_o (s : State) : (s.holdStable).warning_flag_o = s.warning_flag_o := rfl
@[simp] theorem State.holdStable_bytes_o (s : State) : (s.holdStable).bytes_o = s.bytes_o := rfl
@[simp] theorem State.holdStable_settled (s : State) : (s.holdStable).settled = true := rfl
@[simp] theorem State.holdStable_draws (s : State) : (s.holdStable).draws = s.draws := rfl

@[simp] theorem State.withPorts_word_i (v : Vector Line 32) (e : DecodedEvent) (b : Bool) (n : Nat) :
    (State.withPorts v e b n).word_i = v := rfl
@[simp] theorem State.withPorts_amplitude_o (v : Vector Line 32) (e : DecodedEvent) (b : Bool) (n : Nat) :
    (State.withPorts v e b n).amplitude_o = e.amplitude := rfl
@[simp] theorem State.withPorts_x_coordinate_o (v : Vector Line 32) (e : DecodedEvent) (b : Bool) (n : Nat) :
    (State.withPorts v e b n).x_coordinate_o = e.x_coordinate := rfl
@[simp] theorem State.withPorts_y_coordinate_o (v : Vector Line 32) (e : DecodedEvent) (b : Bool) (n : Nat) :
    (State.withPorts v e b n).y_coordinate_o = e.y_coordinate := rfl
@[simp] theorem State.withPorts_ccd_number_o (v : Vector Line 32) (e : DecodedEvent) (b : Bool) (n : Nat) :
    (State.withPorts v e b n).ccd_number_o = e.ccd_number := rfl
@[simp] theorem State.withPorts_fatal_flag_o (v : Vector Line 32) (e : DecodedEvent) (b : Bool) (n : Nat) :
    (State.withPorts v e b n).fatal_flag_o = e.fatal_flag := rfl
@[simp] theorem State.withPorts_warning_flag_o (v : Vector Line 32) (e : DecodedEvent) (b : Bool) (n : Nat) :
    (State.withPorts v e b n).warning_flag_o = e.warning_flag := rfl
@[simp] theorem State.withPorts_bytes_o (v : Vector Line 32) (e : DecodedEvent) (b : Bool) (n : Nat) :
    (State.withPorts v e b n).bytes_o = e.bytes := rfl
@[simp] theorem State.withPorts_settled (v : Vector Line 32) (e : DecodedEvent) (b : Bool) (n : Nat) :
    (State.withPorts v e b n).settled = b := rfl
@[simp] theorem State.withPorts_draws (v : Vector Line 32) (e : DecodedEvent) (b : Bool) (n : Nat) :
    (State.withPorts v e b n).draws = n := rfl

@[simp] theorem State.driveOutputs_event (e : DecodedEvent) (s : State) : (s.driveOutputs e).event = e := rfl
@[simp] theorem State.drawOutputs_event (s : State) : s.drawOutputs.event = freeEvent s.draws := rfl
@[simp] theorem State.holdStable_event (s : State) : s.holdStable.event = s.event := rfl
@[simp] theorem State.withPorts_event (v : Vector Line 32) (e : DecodedEvent) (b : Bool) (n : Nat) :
    (State.withPorts v e b n).event = e := rfl
@[simp] theorem State.systemReset_eq (s : State) : s.systemReset = s := rfl

/-- A state is its input port, its outputs and the two fields of the model's own. -/
theorem State.eq_of_ports {s t : State} (hw : s.word_i = t.word_i) (he : s.event = t.event)
    (hs : s.settled = t.settled) (hd : s.draws = t.draws) : s = t := by
  cases s
  cases t
  simp_all [State.event]

end Sys2Proof.Machine
end

