-- ==== Sys2Proof/Laws/Ops.lean ====
section
/-! SUPPORT. What driving and sampling do, said once. -/

namespace Sys2Proof.Machine

theorem State.drive_same (s : State) : s.drive s.word_i = s := by simp [State.drive]

theorem State.drive_change {v : Vector Line 32} {s : State} (h : v ≠ s.word_i) :
    s.drive v = { s with word_i := v, settled := false }.drawOutputs := by simp [State.drive, h]

/-- After driving, the input port carries what was driven. -/
@[simp] theorem State.drive_word_i (v : Vector Line 32) (s : State) : (s.drive v).word_i = v := by
  by_cases h : v = s.word_i
  · subst h; rw [State.drive_same]
  · rw [State.drive_change h]; rfl

@[simp] theorem State.present_word_i (w : Word) (s : State) : (s.present w).word_i = portOfWord w :=
  State.drive_word_i _ _

/-- Everything a sample can answer. -/
theorem State.sample_cases (s : State) :
    (∃ w, decodePort s.word_i = .ok (.decode w) ∧ s.settled = true ∧ s.sample = .next (s.event, s)) ∨
    (∃ w, decodePort s.word_i = .ok (.decode w) ∧ s.settled = false
      ∧ s.sample = .next (freeEvent s.draws, s.drawOutputs)) ∨
    (decodePort s.word_i = .error .notTwoState ∧ s.sample = .refused (.inputNotDecodable .notTwoState)) := by
  cases hd : decodePort s.word_i with
  | error e =>
    obtain ⟨rfl, -⟩ := decodePort_error hd
    exact .inr (.inr ⟨rfl, by simp [State.sample, hd]⟩)
  | ok i =>
    cases i with
    | decode w =>
      cases hs : s.settled with
      | true => exact .inl ⟨w, rfl, rfl, by simp [State.sample, hd, hs]⟩
      | false => exact .inr (.inl ⟨w, rfl, rfl, by simp [State.sample, hd, hs]⟩)

end Sys2Proof.Machine
end

