-- ==== Sys2Proof/Laws/Step.lean ====
section
/-! SUPPORT. What a step does, said once. -/

namespace Sys2Proof.Machine

/-- The meaning of DECODE, through the one arm. -/
theorem exec_decode (w : Word) (s : State) : exec (.decode w) s = .next (s.driveOutputs (decodeEvent w)) := rfl

/-- Everything a step can answer. -/
theorem step_cases (s : State) :
    (∃ w, s.word_i = portOfWord w ∧ decodePort s.word_i = .ok (.decode w)
      ∧ step s = .next (s.holdStable.driveOutputs (decodeEvent w))) ∨
    (decodePort s.word_i = .error .notTwoState ∧ step s = .refused (.inputNotDecodable .notTwoState)) := by
  cases hd : decodePort s.word_i with
  | error e =>
    obtain ⟨rfl, -⟩ := decodePort_error hd
    exact .inr ⟨rfl, by simp [step, hd]⟩
  | ok i =>
    cases i with
    | decode w => exact .inl ⟨w, eq_portOfWord_of_decodePort hd, rfl, by simp [step, hd, exec_decode]⟩

/-- If a step answers a next state, this is the state. -/
theorem step_next {s t : State} (h : step s = .next t) :
    ∃ w, s.word_i = portOfWord w ∧ t = s.holdStable.driveOutputs (decodeEvent w) := by
  rcases step_cases s with ⟨w, hw, -, hs⟩ | ⟨-, hs⟩
  · rw [hs] at h; injection h with h; exact ⟨w, hw, h.symm⟩
  · rw [hs] at h; cases h

/-- With a word on the input port, consistency says what the settled outputs are. -/
theorem State.consistent_of_word {s : State} {w : Word} (h : s.word_i = portOfWord w) :
    s.consistent = (!s.settled || decide (s.event = decodeEvent w)) := by
  simp [State.consistent, h]

/-- Unsettled ports are consistent whatever they carry. -/
theorem State.consistent_of_unsettled {s : State} (h : s.settled = false) : s.consistent = true := by
  cases hd : decodePort s.word_i with
  | error e => simp [State.consistent, hd, h]
  | ok i => cases i with | decode w => simp [State.consistent, hd, h]

end Sys2Proof.Machine
end

