-- ==== Sys2Proof/Laws/Host.lean ====
section
/-! SUPPORT. What a host operation can do to the block, said once. -/

namespace Sys2Proof.Machine

/-- Keeping a word never touches the block. -/
theorem keepWord_block {h h' : HostState} {o : Host.Outcome Word Fault Refusal} (hk : h.keepWord o = .next h') :
    h'.block = h.block := by
  cases o <;> simp [HostState.keepWord] at hk <;> subst hk <;> rfl

/-- If a host operation answers a next state, the block is as it was, or driven, or stepped, or sampled. -/
theorem hostStep_block {p : OorPolicy} {op : HostOp} {h h' : HostState} (hs : hostStep p op h = .next h') :
    h'.block = h.block ∨ (∃ v, h'.block = h.block.drive v) ∨ step h.block = .next h'.block
      ∨ (∃ e, h.block.sample = .next (e, h'.block)) := by
  cases op with
  | prep n => exact .inl (keepWord_block hs)
  | present w => simp [hostStep] at hs; subst hs; exact .inr (.inl ⟨_, rfl⟩)
  | presentNewest =>
    simp only [hostStep] at hs
    split at hs <;> injection hs with hs <;> subst hs
    · exact .inr (.inl ⟨_, rfl⟩)
    · exact .inl rfl
  | driveLines v => simp [hostStep] at hs; subst hs; exact .inr (.inl ⟨v, rfl⟩)
  | hold =>
    cases hb : step h.block <;> simp [hostStep, hb] at hs
    subst hs
    exact .inr (.inr (.inl rfl))
  | sample =>
    cases hb : h.block.sample <;> simp [hostStep, hb] at hs
    subst hs
    exact .inr (.inr (.inr ⟨_, rfl⟩))
  | samplePort port =>
    cases hb : h.block.sample <;> simp [hostStep, State.samplePort, hb] at hs
    subst hs
    exact .inr (.inr (.inr ⟨_, rfl⟩))
  | recombine f => exact .inl (keepWord_block hs)
  | recombineNewest =>
    simp only [hostStep] at hs
    split at hs
    · exact .inl (keepWord_block hs)
    · injection hs with hs; subst hs; exact .inl rfl
  | systemReset => simp [hostStep] at hs; subst hs; exact .inl rfl

end Sys2Proof.Machine
end

