-- ==== Sys2Proof/Laws/Instances.lean ====
section
/-! SUPPORT. What stepping one of several instances can do, said once. -/

namespace Sys2Proof.Machine

theorem stepAt_next {k : Nat} {insts insts' : List State} (h : stepAt k insts = .next insts') :
    ∃ s t, insts[k]? = some s ∧ step s = .next t ∧ insts' = insts.set k t := by
  cases hk : insts[k]? with
  | none => simp [stepAt, hk] at h
  | some s =>
    cases hs : step s <;> simp [stepAt, hk, hs] at h
    exact ⟨s, _, rfl, hs, h.symm⟩

theorem stepAll_cons {s : State} {insts insts' : List State} (h : stepAll (s :: insts) = .next insts') :
    ∃ t ts, step s = .next t ∧ stepAll insts = .next ts ∧ insts' = t :: ts := by
  cases hs : step s <;> simp [stepAll, hs] at h
  cases ht : stepAll insts <;> simp [ht] at h
  exact ⟨_, _, rfl, rfl, h.symm⟩

/-- If all instances step at once, each takes its own step. -/
theorem stepAll_next {insts insts' : List State} (h : stepAll insts = .next insts') :
    List.Forall₂ (fun s t => step s = .next t) insts insts' := by
  induction insts generalizing insts' with
  | nil => simp [stepAll] at h; subst h; exact .nil
  | cons s insts ih =>
    obtain ⟨t, ts, hs, ht, rfl⟩ := stepAll_cons h
    exact .cons hs (ih ht)

/-- The model's choice of log entry 10: one input that is not two-state refuses the joint step. -/
theorem stepAll_refused {insts : List State} {s : State} (hs : s ∈ insts)
    (hd : decodePort s.word_i = .error .notTwoState) :
    stepAll insts = .refused (.inputNotDecodable .notTwoState) := by
  induction insts with
  | nil => simp at hs
  | cons s' insts ih =>
    rcases step_cases s' with ⟨w, -, hok, hstep⟩ | ⟨-, hstep⟩
    · rcases List.mem_cons.mp hs with rfl | hmem
      · rw [hd] at hok; cases hok
      · simp [stepAll, hstep, ih hmem]
    · simp [stepAll, hstep]

end Sys2Proof.Machine
end

