-- ==== Sys2Proof/Laws/PerInstr.lean ====
section
/-! SUPPORT. Facts of every instruction as syntax, one lemma per constructor. -/

namespace Sys2Proof.Laws.EncodeWidth

/-- An encoding is 32 lines, all two-state: there is one length (R68). -/
def Statement (i : Instr) : Prop := linesWellFormed (encode i) = true

theorem decode (w : Word) : Statement (.decode w) := by
  have h : linesTwoState (linesOfNat 32 w.toNat) = true := by
    rw [← readLines_isSome, readLines_linesOfNat]; rfl
  simp [Statement, linesWellFormed, linesWidthOk, encode, h]

end Sys2Proof.Laws.EncodeWidth
end

