-- ==== Sys2Proof/Tests/Slice0.lean ====
section
/-! SUPPORT. Tests of the model against the vectors of spec/95_test_vectors.md, the checks of WellFormed on ill-formed
terms, and a witness for the hypotheses of each statement that has any. -/

namespace Sys2Proof.Tests

open Sys2Proof Sys2Proof.Machine

/-! ## WellFormed: an ill-formed term for each check, and well-formed ones at the boundary -/

/-- An instruction has no check (R67); the extreme words are well formed. -/
theorem test_instr_wellFormed : (Instr.decode 0).wellFormed = true ∧ (Instr.decode 0xFFFFFFFF).wellFormed = true := by
  decide
theorem test_wellFormed_refuses_31_lines : linesWidthOk (List.replicate 31 Line.low) = false := by decide
theorem test_wellFormed_refuses_33_lines : linesWidthOk (List.replicate 33 Line.low) = false := by decide
theorem test_wellFormed_refuses_undriven : linesTwoState [.low, .undriven] = false := by decide
theorem test_wellFormed_refuses_unknown : linesTwoState [.unknown, .high] = false := by decide
theorem test_wellFormed_refuses_highImpedance : linesTwoState [.highImpedance] = false := by decide
theorem test_inBounds_maxima : EventFields.inBounds ⟨16383, 127, 127, 3, 1, 1⟩ = true := by decide
theorem test_inBounds_refuses_amplitude : EventFields.inBounds ⟨16384, 0, 0, 0, 0, 0⟩ = false := by decide
theorem test_inBounds_refuses_x : EventFields.inBounds ⟨0, 128, 0, 0, 0, 0⟩ = false := by decide
theorem test_inBounds_refuses_y : EventFields.inBounds ⟨0, 0, 128, 0, 0, 0⟩ = false := by decide
theorem test_inBounds_refuses_ccd : EventFields.inBounds ⟨0, 0, 0, 4, 0, 0⟩ = false := by decide
theorem test_inBounds_refuses_fatal : EventFields.inBounds ⟨0, 0, 0, 0, 2, 0⟩ = false := by decide
theorem test_inBounds_refuses_warning : EventFields.inBounds ⟨0, 0, 0, 0, 0, 2⟩ = false := by decide

/-! ## Decoding -/

/-- 0x12345678 written out by the pattern of R62. -/
theorem test_decode_written_out_word :
    decodeLines (patternLines [0,0,0,1,0,0,1,0,0,0,1,1,0,1] [0,0,0,1,0,1,0] [1,1,0,0,1,1,1] [1,0] [0] [0])
      = .ok (.decode 0x12345678) := by decide
/-- The table's row, its bits numbered from the least significant (R8). -/
theorem test_decodeTableWord : decodeTableWord 32 0x0001E240 = some (.decode 123456) := by decide
theorem test_decode_refuses_by_name :
    decodeLines (List.replicate 31 Line.low) = .error .wrongWidth ∧
    decodeLines (.unknown :: List.replicate 31 Line.low) = .error .notTwoState := by decide

/-! ## One step of DECODE, from reset -/

/-- The outputs after one step from reset with a word presented. -/
def eventAfterStep (w : Word) : Option DecodedEvent :=
  match step (State.reset.present w) with
  | .next t => some t.event
  | .fault _ => none
  | .refused _ => none

/-- V4, corrected by C1. -/
theorem test_step_123456 : eventAfterStep 123456 = some ⟨0, 60, 36, 0, 0, 0, #v[0, 1, 226, 64]⟩ := by decide
/-- Section 2.1, "mixed". -/
theorem test_step_deadbeef :
    eventAfterStep 0xDEADBEEF = some ⟨14251, 55, 110, 3, 1, 1, #v[222, 173, 190, 239]⟩ := by decide
/-- Section 2.1, alternating words and the field boundaries. -/
theorem test_decodeEvent_vectors :
    decodeEvent 0xAAAAAAAA = ⟨10922, 85, 42, 2, 1, 0, #v[170, 170, 170, 170]⟩ ∧
    decodeEvent 0x55555555 = ⟨5461, 42, 85, 1, 0, 1, #v[85, 85, 85, 85]⟩ ∧
    decodeEvent 0x9ABCDEF0 = ⟨9903, 27, 111, 0, 0, 0, #v[154, 188, 222, 240]⟩ ∧
    decodeEvent 0x00060000 = ⟨1, 64, 0, 0, 0, 0, #v[0, 6, 0, 0]⟩ ∧
    decodeEvent 0x00000C00 = ⟨0, 1, 64, 0, 0, 0, #v[0, 0, 12, 0]⟩ ∧
    decodeEvent 0x00000018 = ⟨0, 0, 1, 2, 0, 0, #v[0, 0, 0, 24]⟩ := by decide

/-! ## PREP and RECOMBINE (sections 2.3, 2.4, P3) -/

/-- What PREP answers, as plain data: a word, or the error, or neither. -/
def prepAnswer (p : OorPolicy) (n : Numeric) : Option Word × Bool :=
  match prep p n with
  | .next w => (some w, false)
  | .fault _ => (none, true)
  | .refused _ => (none, false)

/-- The rows in the domain: 123456.75, 4294967295.9, -2147483648.9, -1.5, -0.5, -2147483647. -/
theorem test_prep_inDomain : ∀ p ∈ [OorPolicy.wrap, OorPolicy.error],
    prepAnswer p (.float false 12345675 .decimal (-2)) = (some 0x0001E240, false) ∧
    prepAnswer p (.float false 42949672959 .decimal (-1)) = (some 0xFFFFFFFF, false) ∧
    prepAnswer p (.float true 21474836489 .decimal (-1)) = (some 0x80000000, false) ∧
    prepAnswer p (.float true 3 .binary (-1)) = (some 0xFFFFFFFF, false) ∧
    prepAnswer p (.float true 1 .binary (-1)) = (some 0, false) ∧
    prepAnswer p (.integer (-2147483647)) = (some 0x80000001, false) := by decide
/-- The rows outside the domain: 2^32, -2^31 - 1, 2^40 + 5, -2^33 - 1. -/
theorem test_prep_outside :
    prepAnswer .wrap (.integer 4294967296) = (some 0, false) ∧
    prepAnswer .wrap (.integer (-2147483649)) = (some 0x7FFFFFFF, false) ∧
    prepAnswer .wrap (.integer 1099511627781) = (some 5, false) ∧
    prepAnswer .wrap (.integer (-8589934593)) = (some 0xFFFFFFFF, false) ∧
    prepAnswer .error (.integer 4294967296) = (none, true) ∧
    prepAnswer .error (.integer (-2147483649)) = (none, true) := by decide
/-- P2 and P3: 0xDEADBEEF comes back, and the source's own example values do not give 123456 (C1). -/
theorem test_recombine :
    recombineNat ⟨14251, 55, 110, 3, 1, 1⟩ = 3735928559 ∧ recombineNat ⟨0, 60, 36, 0, 0, 0⟩ = 123456 ∧
    recombineNat ⟨0, 96, 9, 0, 0, 0⟩ = 196752 := by decide

/-! ## Witnesses: each statement's hypotheses are met together -/

/-- Ports settled on a word. -/
def settledOn (w : Word) : State := State.withPorts (portOfWord w) (decodeEvent w) true 1
/-- Ports with a word driven and not settled. -/
def drivenOn (w : Word) : State := State.withPorts (portOfWord w) (decodeEvent 0) false 1

theorem witness_EncodedInstructionDecodesBack : (Instr.decode 0xDEADBEEF).wellFormed = true := by decide
theorem witness_DecodedLinesAreTheEncoding :
    decodeLines (List.replicate 32 Line.high) = .ok (.decode 0xFFFFFFFF) ∧
    decodeLines (List.replicate 32 Line.low) = .ok (.decode 0) := by decide
theorem witness_DecodeLeavesInputPortUnchanged :
    ∃ t, exec (.decode 0xFFFFFFFF) State.reset = .next t := ⟨_, rfl⟩
theorem witness_DecodeDrivesBytes_corners :
    (0 : Nat) < 32 ∧ (1 : Word) = BitVec.ofNat 32 (2 ^ 0) ∧ 31 < 32 ∧ (0x80000000 : Word) = BitVec.ofNat 32 (2 ^ 31) := by
  decide
theorem witness_DecodeDrivesAmplitude_bit31 : (0x80000000 : Word).getLsbD 31 = true := by decide
theorem witness_FieldIsMaskedShiftedAndZeroExtended :
    OutPort.isField .amplitude = true ∧ OutPort.isField .x_coordinate = true ∧ OutPort.isField .y_coordinate = true ∧
    OutPort.isField .ccd_number = true ∧ OutPort.isField .fatal_flag = true ∧ OutPort.isField .warning_flag = true := by
  decide
theorem witness_FieldMasksPartitionTheWord :
    OutPort.isField .amplitude = true ∧ OutPort.isField .x_coordinate = true ∧ OutPort.amplitude ≠ .x_coordinate := by
  decide
/-- Also for EveryWordAndEveryFieldValueIsLegal: the two ends of every bound. -/
theorem witness_RecombineInvertsDecode :
    EventFields.inBounds ⟨0, 0, 0, 0, 0, 0⟩ = true ∧ EventFields.inBounds ⟨16383, 127, 127, 3, 1, 1⟩ = true := by decide
theorem witness_DecodeIsABijection :
    (decodeEvent 0xDEADBEEF).fields = (decodeEvent 0xDEADBEEF).fields ∧
    EventFields.inBounds ⟨14251, 55, 110, 3, 1, 1⟩ = true := by decide
theorem witness_EveryWordBitIsInExactlyOneField : (0 : Nat) < 32 ∧ 31 < 32 := by decide
theorem witness_FlippingAWordBit : (0 : Nat) < 32 ∧ 31 < 32 ∧ (0 : Nat) < OutPort.width .warning_flag := by decide
theorem witness_StepRunsTheInstructionOnTheInputPort :
    (decodePort (drivenOn 7).word_i = .ok (.decode 7) ∧ (Instr.decode 7).wellFormed = true) ∧
    decodePort State.reset.word_i = .error .notTwoState := by decide
theorem witness_FetchedTableWordIsWhatStepRuns : (32 : Nat) ≤ 32 ∧ 0 ≤ 32 := by decide
theorem witness_StepKeepsPortsConsistent : ∃ t, step (drivenOn 0x80000001) = .next t := ⟨_, rfl⟩
theorem witness_HostProgramsKeepPortsConsistent :
    State.reset.consistent = true ∧
    ∃ h', hostRun .wrap [.present 5, .hold] { block := State.reset, values := [] } = .next h' :=
  ⟨by decide, _, rfl⟩
theorem witness_SettledOutputsAreOfOneWord :
    State.reset.consistent = true ∧
    ∃ h', hostRun .error [.present 0xFFFFFFFF, .hold] { block := State.reset, values := [] } = .next h' ∧
      h'.block.settled = true :=
  ⟨by decide, _, rfl, rfl⟩
theorem witness_OnlyTwoStateInputsAreAdmitted :
    ∃ l ∈ State.reset.word_i.toList, l ≠ .low ∧ l ≠ .high := by decide
theorem witness_SettledOutputsDependOnTheInputPortAlone :
    (drivenOn 9).word_i = (settledOn 9).word_i ∧ ∃ t, step (drivenOn 9) = .next t := ⟨rfl, _, rfl⟩
theorem witness_SteppingAgainChangesNothing : ∃ t, step (drivenOn 0) = .next t := ⟨_, rfl⟩
theorem witness_SettledPorts :
    (settledOn 0xFFFFFFFF).consistent = true ∧ (settledOn 0xFFFFFFFF).settled = true ∧
    (settledOn 0xFFFFFFFF).word_i = portOfWord 0xFFFFFFFF := by decide
theorem witness_EarlySampleIsAFreeDraw :
    (drivenOn 3).word_i = portOfWord 3 ∧ (drivenOn 3).settled = false := by decide
theorem witness_InputChangeUnsettlesUntilHeldStable :
    portOfWord 1 = (settledOn 1).word_i ∧ portOfWord 2 ≠ (settledOn 1).word_i ∧ portOfWord 2 = portOfWord 2 := by decide
theorem witness_SettledOutputsChangeOnlyWithTheInput :
    (settledOn 6).consistent = true ∧ (settledOn 6).settled = true ∧
    ∃ h', hostStep .error .sample { block := settledOn 6, values := [] } = .next h' ∧
      h'.block.word_i = (settledOn 6).word_i :=
  ⟨by decide, by decide, _, rfl, rfl⟩
/-- The same statement with the block's own step, and with the word driven again that is there. -/
theorem witness_SettledOutputsChangeOnlyWithTheInput_hold_and_present :
    (∃ h', hostStep .error .hold { block := settledOn 6, values := [] } = .next h' ∧
      h'.block.word_i = (settledOn 6).word_i) ∧
    ∃ h', hostStep .error (.present 6) { block := settledOn 6, values := [] } = .next h' ∧
      h'.block.word_i = (settledOn 6).word_i :=
  ⟨⟨_, rfl, rfl⟩, _, rfl, by decide⟩
/-- The clauses of R82 at their boundaries: no integer part, the two ends of the domain, one beyond each end. -/
theorem witness_PrepReducesModuloTwoToThe32 :
    trunc? .nan = none ∧ trunc? (.integer (-2147483648)) = some (-2147483648) ∧
    trunc? (.integer 4294967295) = some 4294967295 ∧ trunc? (.integer (-2147483649)) = some (-2147483649) ∧
    trunc? (.integer 4294967296) = some 4294967296 := by decide
theorem witness_NonFiniteValuesAreRefused : Numeric.nan = .nan ∧ Numeric.posInf = .posInf ∧ Numeric.negInf = .negInf := by
  decide
theorem witness_PrepPreimagesOfEveryWord : inDomain (-2147483648) = true ∧ inDomain 4294967295 = true := by decide
/-- One beyond each end of the domain. -/
theorem witness_OutOfRangeInput :
    trunc? (.integer 4294967296) = some 4294967296 ∧ (4294967296 < (-2147483648 : Int) ∨ (4294967295 : Int) < 4294967296) ∧
    trunc? (.integer (-2147483649)) = some (-2147483649) ∧
    ((-2147483649 : Int) < -2147483648 ∨ (4294967295 : Int) < -2147483649) := by
  decide
theorem witness_HostDecodeEndsInRecordOrError :
    trunc? (.integer (-1)) = some (-1) ∧ inDomain (-1) = true ∧
    trunc? (.integer 4294967296) = some 4294967296 ∧ inDomain 4294967296 = false := by decide
theorem witness_HostProgramRunsTheSourcesDecode : prep .error (.integer (-1)) = .next 0xFFFFFFFF := rfl
theorem witness_InstancesDecodeIndependently :
    (∃ t, stepAll [drivenOn 1, drivenOn 2] = .next t) ∧ [drivenOn 1, drivenOn 2][1]? = some (drivenOn 2) ∧
    (∀ s ∈ [drivenOn 1, drivenOn 2], s.inputReady = true) ∧ ∃ t, stepAt 1 [drivenOn 1, drivenOn 2] = .next t :=
  ⟨⟨_, rfl⟩, rfl, by decide, _, rfl⟩
theorem witness_DecodesOfDifferentInstancesCommute :
    (0 : Nat) ≠ 1 ∧ (∃ a, stepAt 0 [drivenOn 1, State.reset.present 2] = .next a) ∧
    ∃ b, stepAt 1 [drivenOn 1, State.reset.present 2] = .next b :=
  ⟨by decide, ⟨_, rfl⟩, _, rfl⟩

end Sys2Proof.Tests
end

section
/-! PROOFS. The encoding of the word: its one row, the field layout, and the values the fields can take. -/

namespace Sys2Proof.Machine

/-! ## DECODE's event -/

/-- Whatever state DECODE answers, its outputs are the decode of the word. -/
theorem event_of_exec_decode {w : Word} {s t : State} (h : exec (.decode w) s = .next t) :
    t.event = decodeEvent w := by
  rw [exec_decode] at h
  injection h with h
  rw [← h, State.driveOutputs_event]

/-! ## An output is a contiguous piece of the word -/

theorem OutPort.low_add_width_le (p : OutPort) : p.low + p.width ≤ 32 := by
  cases p with
  | byte k => simp only [OutPort.low, OutPort.width]; omega
  | amplitude | x_coordinate | y_coordinate | ccd_number | fatal_flag | warning_flag => decide

theorem OutPort.width_pos (p : OutPort) : 0 < p.width := by
  cases p <;> exact Nat.succ_pos _

/-- R64's formula, for every output port: the masked word, shifted down. -/
theorem OutPort.read_eq_mask_shift (p : OutPort) (w : Word) :
    p.read (decodeEvent w) = (w &&& p.mask) >>> p.low := by
  apply BitVec.eq_of_getLsbD_eq
  intro j _
  rw [OutPort.read_bit]
  exact (maskShift_bit w p.low p.width j p.low_add_width_le).symm

theorem OutPort.read_eq_extractLsb' (p : OutPort) (w : Word) :
    p.read (decodeEvent w) = (w.extractLsb' p.low p.width).setWidth 32 := by
  apply BitVec.eq_of_getLsbD_eq
  intro j hj
  rw [OutPort.read_bit, BitVec.getLsbD_setWidth, BitVec.getLsbD_extractLsb']
  simp [hj]

/-- As a number, every output is R9's slice of the word. -/
theorem OutPort.read_toNat (p : OutPort) (w : Word) :
    (p.read (decodeEvent w)).toNat = slice w (p.low + p.width - 1) p.low := by
  have hle := p.low_add_width_le
  have hwidth : p.low + p.width - 1 - p.low + 1 = p.width := by have := p.width_pos; omega
  rw [OutPort.read_eq_extractLsb', BitVec.toNat_setWidth_of_le (by omega), BitVec.extractLsb'_toNat, slice, hwidth,
    Nat.shiftRight_eq_div_pow]

/-! ## Which output bit carries a given word bit -/

/-- Two positions that agree in every word are one position. -/
theorem word_bit_eq_forall_iff {i k : Nat} (hk : k < 32) :
    (∀ w : Word, w.getLsbD i = w.getLsbD k) ↔ i = k := by
  constructor
  · intro h
    have hik := h (BitVec.twoPow 32 k)
    simp only [BitVec.getLsbD_twoPow, hk, decide_true, Bool.true_and, decide_eq_true_eq] at hik
    exact hik.symm
  · rintro rfl w
    rfl

/-- Bit j of an output carries word bit k after DECODE exactly when it stands at k in the layout. -/
theorem OutPort.carries_iff (p : OutPort) {j k : Nat} (hj : j < p.width) (hk : k < 32) :
    (∀ (w : Word) (s : State), ∃ t, exec (.decode w) s = .next t ∧ (p.read t.event).getLsbD j = w.getLsbD k) ↔
      p.low + j = k := by
  rw [← word_bit_eq_forall_iff hk]
  constructor
  · intro h w
    obtain ⟨t, ht, hbit⟩ := h w State.reset
    rw [event_of_exec_decode ht, OutPort.read_bit] at hbit
    simpa [hj] using hbit
  · intro h w s
    refine ⟨_, exec_decode w s, ?_⟩
    simpa [OutPort.read_bit, hj] using h w

/-- The field whose bits include word bit k (R60). -/
def fieldOfBit (k : Nat) : OutPort :=
  if 18 ≤ k then .amplitude
  else if 11 ≤ k then .x_coordinate
  else if 4 ≤ k then .y_coordinate
  else if 2 ≤ k then .ccd_number
  else if 1 ≤ k then .fatal_flag
  else .warning_flag

/-- No gap: every word bit lies within the field named for it. -/
theorem fieldOfBit_covers : ∀ k < 32, (fieldOfBit k).isField = true ∧
    (fieldOfBit k).low ≤ k ∧ k < (fieldOfBit k).low + (fieldOfBit k).width := by
  decide

/-- No overlap: a field's bits name that field only. -/
theorem fieldOfBit_low_add {p : OutPort} {j : Nat} (hp : p.isField = true) (hj : j < p.width) :
    fieldOfBit (p.low + j) = p := by
  cases p with
  | byte k => cases hp
  | amplitude => simp [fieldOfBit, OutPort.low]
  | x_coordinate | y_coordinate | ccd_number | fatal_flag | warning_flag =>
    revert j
    decide

/-! ## The six fields as numbers -/

theorem inBounds_iff (f : EventFields) : f.inBounds = true ↔
    f.amplitude ≤ 16383 ∧ f.x_coordinate ≤ 127 ∧ f.y_coordinate ≤ 127 ∧
      f.ccd_number ≤ 3 ∧ f.fatal_flag ≤ 1 ∧ f.warning_flag ≤ 1 := by
  simp [EventFields.inBounds, and_assoc]

/-- The port widths keep every event within the bounds of R110. -/
theorem DecodedEvent.fields_inBounds (e : DecodedEvent) : e.fields.inBounds = true := by
  rw [inBounds_iff]
  exact ⟨Nat.le_of_lt_succ e.amplitude.isLt, Nat.le_of_lt_succ e.x_coordinate.isLt,
    Nat.le_of_lt_succ e.y_coordinate.isLt, Nat.le_of_lt_succ e.ccd_number.isLt,
    Nat.le_of_lt_succ e.fatal_flag.isLt, Nat.le_of_lt_succ e.warning_flag.isLt⟩

/-- The six fields DECODE drives are the word's slices by the layout of R60. -/
theorem decodeEvent_fields (w : Word) : (decodeEvent w).fields =
    { amplitude := slice w 31 18, x_coordinate := slice w 17 11, y_coordinate := slice w 10 4,
      ccd_number := slice w 3 2, fatal_flag := slice w 1 1, warning_flag := slice w 0 0 } := by
  rw [DecodedEvent.fields, EventFields.mk.injEq]
  exact ⟨toNat_eq_slice _ w 31 18 rfl (amplitudeOf_bit w), toNat_eq_slice _ w 17 11 rfl (xCoordinateOf_bit w),
    toNat_eq_slice _ w 10 4 rfl (yCoordinateOf_bit w), toNat_eq_slice _ w 3 2 rfl (ccdNumberOf_bit w),
    toNat_eq_slice _ w 1 1 rfl (fatalFlagOf_bit w),
    toNat_eq_slice _ w 0 0 rfl (by simpa [decodeEvent] using warningFlagOf_bit w)⟩

/-- Within the bounds the OR of R109 has no carries to lose: it is a sum. -/
theorem recombineNat_eq_sum {f : EventFields} (h : f.inBounds = true) : recombineNat f =
    f.amplitude * 2 ^ 18 + (f.x_coordinate * 2 ^ 11 + (f.y_coordinate * 2 ^ 4 +
      (f.ccd_number * 2 ^ 2 + (f.fatal_flag * 2 ^ 1 + f.warning_flag)))) := by
  obtain ⟨ha, hx, hy, hc, hf, hw⟩ := (inBounds_iff f).mp h
  simp only [recombineNat, Nat.or_assoc]
  rw [← Nat.shiftLeft_add_eq_or_of_lt (b := f.warning_flag) (i := 1) (by omega),
    ← Nat.shiftLeft_add_eq_or_of_lt (i := 2) (by omega),
    ← Nat.shiftLeft_add_eq_or_of_lt (i := 4) (by omega),
    ← Nat.shiftLeft_add_eq_or_of_lt (i := 11) (by omega),
    ← Nat.shiftLeft_add_eq_or_of_lt (i := 18) (by omega)]
  simp only [Nat.shiftLeft_eq]

/-- DECODE of the recombined word gives the record back. -/
theorem decodeEvent_recombineNat {f : EventFields} (h : f.inBounds = true) :
    (decodeEvent (BitVec.ofNat 32 (recombineNat f))).fields = f := by
  rw [decodeEvent_fields, recombineNat_eq_sum h]
  rw [inBounds_iff] at h
  cases f
  simp only [slice, BitVec.toNat_ofNat, EventFields.mk.injEq] at h ⊢
  omega

/-! ## The obligations -/

/-- Settles O5: the mask clears every word to the match, and a driven port presents its word. -/
theorem everyWordMatchesTheOneRow : Obligations.EveryWordMatchesTheOneRow :=
  ⟨rfl, rfl, fun w => ⟨BitVec.and_zero, decodePort_portOfWord w⟩⟩

/-- Settles O6: carrying word bit k means standing at k in the layout, and the fields tile the 32 positions. -/
theorem everyWordBitIsInExactlyOneField : Obligations.EveryWordBitIsInExactlyOneField := by
  intro k hk
  obtain ⟨hfield, hlow, hhigh⟩ := fieldOfBit_covers k hk
  refine ⟨(fieldOfBit k, k - (fieldOfBit k).low), ⟨hfield, ?_, ?_⟩, ?_⟩
  · exact Nat.sub_lt_left_of_lt_add hlow hhigh
  · exact (OutPort.carries_iff _ (Nat.sub_lt_left_of_lt_add hlow hhigh) hk).mpr (Nat.add_sub_of_le hlow)
  · rintro ⟨p, j⟩ ⟨hp, hj, hcarries⟩
    obtain rfl := (p.carries_iff hj hk).mp hcarries
    rw [fieldOfBit_low_add hp hj, Nat.add_sub_cancel_left]

/-- Settles O13: both readings of R64 hold of the decoded event, which DECODE drives. -/
theorem fieldIsMaskedShiftedAndZeroExtended : Obligations.FieldIsMaskedShiftedAndZeroExtended := by
  intro p w s _
  refine ⟨_, exec_decode w s, ?_⟩
  rw [State.driveOutputs_event]
  exact ⟨p.read_eq_mask_shift w, p.read_toNat w⟩

/-- Settles O16: the port widths give the bounds, and RECOMBINE's formula gives a word for every record. -/
theorem everyWordAndEveryFieldValueIsLegal : Obligations.EveryWordAndEveryFieldValueIsLegal := by
  constructor
  · intro w s
    exact ⟨rfl, decodePort_portOfWord w, _, exec_decode w s, DecodedEvent.fields_inBounds _⟩
  · intro f s hf
    refine ⟨_, _, exec_decode (BitVec.ofNat 32 (recombineNat f)) s, ?_⟩
    rw [State.driveOutputs_event, decodeEvent_recombineNat hf]

end Sys2Proof.Machine
end

section
/-! PROOFS. PREP: the integer part reduced modulo 2^32. -/

namespace Sys2Proof.Machine

/-- The pseudocode's range test (R82): a value fails it exactly when it lies beyond an end of the domain. -/
theorem inDomain_eq_false_iff (i : Int) : inDomain i = false ↔ i < -2147483648 ∨ 4294967295 < i := by
  rw [← Bool.not_eq_true, inDomain_iff, not_and_or, not_le, not_le]

/-- In the domain, reduction modulo 2^32 keeps a nonnegative integer and adds 2^32 to a negative one (R82). -/
theorem reduceWord_toNat_of_inDomain {i : Int} (hd : inDomain i = true) :
    ((reduceWord i).toNat : Int) = if 0 ≤ i then i else i + 4294967296 := by
  obtain ⟨hlow, hhigh⟩ := (inDomain_iff i).mp hd
  rw [reduceWord_toNat]
  split
  case isTrue hnonneg =>
    exact Int.emod_eq_of_lt hnonneg (by omega)
  case isFalse hneg =>
    rw [← Int.add_emod_right]
    exact Int.emod_eq_of_lt (by omega) (by omega)

theorem prep_integer_inDomain {i : Int} (p : OorPolicy) (hd : inDomain i = true) :
    prep p (.integer i) = .next (reduceWord i) := prep_inDomain p rfl hd

theorem truncMagnitude_zero (r : Radix) (e : Int) : truncMagnitude 0 r e = 0 := by
  cases e with
  | ofNat e => exact Nat.zero_mul _
  | negSucc e => exact Nat.zero_div _

/-- Negative zero, in either radix and with any exponent, has the integer part 0. -/
theorem trunc?_negativeZero (r : Radix) (e : Int) : trunc? (.float true 0 r e) = some 0 := by
  simp [trunc?, truncMagnitude_zero]

/-- Settles O37: the pseudocode's three exits by the range test, and the corner cases as reductions of their integer parts. -/
theorem prepReducesModuloTwoToThe32 : Obligations.PrepReducesModuloTwoToThe32 := by
  refine ⟨fun p n => prep_nonfinite p, ?inside, ?outside, fun p => ?corners⟩
  case inside =>
    intro p n i hi hlow hhigh
    have hd : inDomain i = true := (inDomain_iff i).mpr ⟨hlow, hhigh⟩
    exact ⟨reduceWord i, prep_inDomain p hi hd, reduceWord_toNat_of_inDomain hd⟩
  case outside =>
    intro n i hi hout
    have hd : inDomain i = false := (inDomain_eq_false_iff i).mpr hout
    exact ⟨prep_outside_error hi hd, reduceWord i, prep_outside_wrap hi hd, reduceWord_toNat i⟩
  case corners =>
    exact ⟨prep_integer_inDomain p rfl, prep_integer_inDomain p rfl, prep_integer_inDomain p rfl,
      prep_integer_inDomain p rfl, fun r e => prep_inDomain p (trunc?_negativeZero r e) rfl⟩

end Sys2Proof.Machine
end

section
/-! PROOFS. DECODE output by output, the round trip through RECOMBINE, and several blocks decoding at once. -/

namespace Sys2Proof.Machine

/-! ## The outputs as numbers -/

/-- R64's two readings agree: the masked and shifted word is the slice. -/
theorem OutPort.mask_shift_toNat (p : OutPort) (w : Word) :
    ((w &&& p.mask) >>> p.low).toNat = slice w (p.low + p.width - 1) p.low := by
  rw [← p.read_eq_mask_shift, p.read_toNat]

theorem amplitudeOf_toNat (w : Word) : (amplitudeOf w).toNat = slice w 31 18 :=
  congrArg EventFields.amplitude (decodeEvent_fields w)

theorem xCoordinateOf_toNat (w : Word) : (xCoordinateOf w).toNat = slice w 17 11 :=
  congrArg EventFields.x_coordinate (decodeEvent_fields w)

theorem yCoordinateOf_toNat (w : Word) : (yCoordinateOf w).toNat = slice w 10 4 :=
  congrArg EventFields.y_coordinate (decodeEvent_fields w)

theorem ccdNumberOf_toNat (w : Word) : (ccdNumberOf w).toNat = slice w 3 2 :=
  congrArg EventFields.ccd_number (decodeEvent_fields w)

theorem fatalFlagOf_toNat (w : Word) : (fatalFlagOf w).toNat = slice w 1 1 :=
  congrArg EventFields.fatal_flag (decodeEvent_fields w)

theorem warningFlagOf_toNat (w : Word) : (warningFlagOf w).toNat = slice w 0 0 :=
  congrArg EventFields.warning_flag (decodeEvent_fields w)

theorem byteOf_toNat (k : Nat) (w : Word) : (byteOf k w).toNat = slice w (8 * k + 7) (8 * k) :=
  toNat_eq_slice _ w _ _ (by omega) (byteOf_bit k w)

/-- A slice that ends at bit 31 needs no reduction: the shifted word has no bits above it. -/
theorem slice_from_bit31 (w : Word) {lo : Nat} (hlo : lo ≤ 31) : slice w 31 lo = w.toNat / 2 ^ lo := by
  have hwidth : 2 ^ lo * 2 ^ (31 - lo + 1) = 2 ^ 32 := by rw [← pow_add]; congr 1; omega
  exact Nat.mod_eq_of_lt (Nat.div_lt_of_lt_mul (hwidth ▸ w.isLt))

theorem eq_ofNat_of_toNat_eq {n m : Nat} {v : BitVec n} (h : v.toNat = m) : v = BitVec.ofNat n m :=
  (BitVec.toNat_eq_nat.mp h).2

/-- R101's four assignments, each by its slice. -/
theorem byteViewOf_eq_slices (w : Word) : byteViewOf w =
    #v[BitVec.ofNat 8 (slice w 31 24), BitVec.ofNat 8 (slice w 23 16),
      BitVec.ofNat 8 (slice w 15 8), BitVec.ofNat 8 (slice w 7 0)] := by
  have h3 : byteOf 3 w = BitVec.ofNat 8 (slice w 31 24) := eq_ofNat_of_toNat_eq (byteOf_toNat 3 w)
  have h2 : byteOf 2 w = BitVec.ofNat 8 (slice w 23 16) := eq_ofNat_of_toNat_eq (byteOf_toNat 2 w)
  have h1 : byteOf 1 w = BitVec.ofNat 8 (slice w 15 8) := eq_ofNat_of_toNat_eq (byteOf_toNat 1 w)
  have h0 : byteOf 0 w = BitVec.ofNat 8 (slice w 7 0) := eq_ofNat_of_toNat_eq (byteOf_toNat 0 w)
  exact congr(#v[$h3, $h2, $h1, $h0])

/-- R108's ten assignments, each by its slice. -/
theorem decodeEvent_eq_slices (w : Word) : decodeEvent w =
    { amplitude := BitVec.ofNat 14 (slice w 31 18)
      x_coordinate := BitVec.ofNat 7 (slice w 17 11)
      y_coordinate := BitVec.ofNat 7 (slice w 10 4)
      ccd_number := BitVec.ofNat 2 (slice w 3 2)
      fatal_flag := BitVec.ofNat 1 (slice w 1 1)
      warning_flag := BitVec.ofNat 1 (slice w 0 0)
      bytes := #v[BitVec.ofNat 8 (slice w 31 24), BitVec.ofNat 8 (slice w 23 16),
        BitVec.ofNat 8 (slice w 15 8), BitVec.ofNat 8 (slice w 7 0)] } := by
  rw [decodeEvent, DecodedEvent.mk.injEq]
  exact ⟨eq_ofNat_of_toNat_eq (amplitudeOf_toNat w), eq_ofNat_of_toNat_eq (xCoordinateOf_toNat w),
    eq_ofNat_of_toNat_eq (yCoordinateOf_toNat w), eq_ofNat_of_toNat_eq (ccdNumberOf_toNat w),
    eq_ofNat_of_toNat_eq (fatalFlagOf_toNat w), eq_ofNat_of_toNat_eq (warningFlagOf_toNat w),
    byteViewOf_eq_slices w⟩

/-! ## Single bits of the amplitude and of the bytes -/

theorem amplitudeOf_eq_allOnes_iff (w : Word) :
    amplitudeOf w = BitVec.allOnes 14 ↔ ∀ k, 18 ≤ k → k < 32 → w.getLsbD k = true := by
  constructor
  · intro h k hlow hhigh
    have hbit := amplitudeOf_bit w (k - 18)
    have hj : k - 18 < 14 := by omega
    rw [h, Nat.add_sub_of_le hlow, BitVec.getLsbD_allOnes] at hbit
    simpa [hj] using hbit
  · intro h
    apply BitVec.eq_of_getLsbD_eq
    intro j hj
    rw [amplitudeOf_bit, h (18 + j) (by omega) (by omega), BitVec.getLsbD_allOnes, Bool.and_true]

/-- Bit 31 is the amplitude's highest bit. -/
theorem le_amplitudeOf_of_bit31 {w : Word} (h : w.getLsbD 31 = true) : 8192 ≤ (amplitudeOf w).toNat := by
  have hbit : (amplitudeOf w).getLsbD 13 = true := by rw [amplitudeOf_bit]; exact h
  exact Nat.ge_two_pow_of_testBit hbit

/-- Of a word with bit k alone, byte `k / 8` has its bit `k % 8` set and the other bytes are 0. -/
theorem byteOf_ofNat_two_pow (m : Nat) {k : Nat} (hk : k < 32) :
    byteOf m (BitVec.ofNat 32 (2 ^ k)) = if m = k / 8 then BitVec.twoPow 8 (k % 8) else 0#8 := by
  apply BitVec.eq_of_getLsbD_eq
  intro j hj
  rw [byteOf_bit, BitVec.getLsbD_ofNat, Nat.testBit_two_pow, Bool.eq_iff_iff]
  simp only [Bool.and_eq_true, decide_eq_true_eq]
  split
  case isTrue hm =>
    simp only [BitVec.getLsbD_twoPow, Bool.and_eq_true, decide_eq_true_eq]
    omega
  case isFalse hm =>
    simp only [BitVec.getLsbD_zero, Bool.false_eq_true, iff_false]
    omega

/-! ## DECODE is linear over XOR -/

/-- An output that reads consecutive word bits reads the XOR of two words as the XOR of what it reads of each. -/
theorem xor_of_word_bits {n lo : Nat} {f : Word → BitVec n}
    (hf : ∀ w j, (f w).getLsbD j = (decide (j < n) && w.getLsbD (lo + j))) (w d : Word) :
    f (w ^^^ d) = f w ^^^ f d := by
  apply BitVec.eq_of_getLsbD_eq
  intro j hj
  simp only [BitVec.getLsbD_xor, hf, Bool.and_xor_distrib_left]

theorem amplitudeOf_xor (w d : Word) : amplitudeOf (w ^^^ d) = amplitudeOf w ^^^ amplitudeOf d :=
  xor_of_word_bits amplitudeOf_bit w d

theorem xCoordinateOf_xor (w d : Word) : xCoordinateOf (w ^^^ d) = xCoordinateOf w ^^^ xCoordinateOf d :=
  xor_of_word_bits xCoordinateOf_bit w d

theorem yCoordinateOf_xor (w d : Word) : yCoordinateOf (w ^^^ d) = yCoordinateOf w ^^^ yCoordinateOf d :=
  xor_of_word_bits yCoordinateOf_bit w d

theorem ccdNumberOf_xor (w d : Word) : ccdNumberOf (w ^^^ d) = ccdNumberOf w ^^^ ccdNumberOf d :=
  xor_of_word_bits ccdNumberOf_bit w d

theorem fatalFlagOf_xor (w d : Word) : fatalFlagOf (w ^^^ d) = fatalFlagOf w ^^^ fatalFlagOf d :=
  xor_of_word_bits fatalFlagOf_bit w d

/-- The warning flag starts at bit 0; this gives its bits the shape of the other fields'. -/
theorem warningFlagOf_bit_add (w : Word) (j : Nat) :
    (warningFlagOf w).getLsbD j = (decide (j < 1) && w.getLsbD (0 + j)) := by
  rw [Nat.zero_add, warningFlagOf_bit]

theorem warningFlagOf_xor (w d : Word) : warningFlagOf (w ^^^ d) = warningFlagOf w ^^^ warningFlagOf d :=
  xor_of_word_bits warningFlagOf_bit_add w d

/-- Every field of the XOR of two words is the XOR of their fields. -/
theorem decodeEvent_xor (w d : Word) : decodeEvent (w ^^^ d) =
    { amplitude := amplitudeOf w ^^^ amplitudeOf d
      x_coordinate := xCoordinateOf w ^^^ xCoordinateOf d
      y_coordinate := yCoordinateOf w ^^^ yCoordinateOf d
      ccd_number := ccdNumberOf w ^^^ ccdNumberOf d
      fatal_flag := fatalFlagOf w ^^^ fatalFlagOf d
      warning_flag := warningFlagOf w ^^^ warningFlagOf d
      bytes := byteViewOf (w ^^^ d) } := by
  rw [decodeEvent, amplitudeOf_xor, xCoordinateOf_xor, yCoordinateOf_xor, ccdNumberOf_xor, fatalFlagOf_xor,
    warningFlagOf_xor]

theorem fatalFlagOf_flip_ne (w : Word) : fatalFlagOf (w ^^^ fatalFlagMask) ≠ fatalFlagOf w := by
  rw [fatalFlagOf_xor, ne_eq, xor_left_eq_self_iff]
  decide

theorem warningFlagOf_flip_ne (w : Word) : warningFlagOf (w ^^^ warningFlagMask) ≠ warningFlagOf w := by
  rw [warningFlagOf_xor, ne_eq, xor_left_eq_self_iff]
  decide

/-- R106: every other field of the fatal flag's mask is 0, so flipping its bit reaches that flag and the bytes only. -/
theorem decodeEvent_flip_fatalFlag (w : Word) : decodeEvent (w ^^^ fatalFlagMask) =
    { decodeEvent w with
      fatal_flag := fatalFlagOf (w ^^^ fatalFlagMask), bytes := byteViewOf (w ^^^ fatalFlagMask) } := by
  rw [decodeEvent_xor, DecodedEvent.mk.injEq]
  exact ⟨BitVec.xor_zero, BitVec.xor_zero, BitVec.xor_zero, BitVec.xor_zero, (fatalFlagOf_xor w _).symm,
    BitVec.xor_zero, rfl⟩

/-- R107: every other field of the warning flag's mask is 0, so flipping its bit reaches that flag and the bytes only. -/
theorem decodeEvent_flip_warningFlag (w : Word) : decodeEvent (w ^^^ warningFlagMask) =
    { decodeEvent w with
      warning_flag := warningFlagOf (w ^^^ warningFlagMask), bytes := byteViewOf (w ^^^ warningFlagMask) } := by
  rw [decodeEvent_xor, DecodedEvent.mk.injEq]
  exact ⟨BitVec.xor_zero, BitVec.xor_zero, BitVec.xor_zero, BitVec.xor_zero, BitVec.xor_zero,
    (warningFlagOf_xor w _).symm, rfl⟩

/-! ## RECOMBINE -/

theorem recombine_inBounds {f : EventFields} (h : f.inBounds = true) :
    recombine f = .next (BitVec.ofNat 32 (recombineNat f)) := by
  simp [recombine, h]

/-- Within the bounds the formula's number fits a word. -/
theorem recombineNat_lt {f : EventFields} (h : f.inBounds = true) : recombineNat f < 2 ^ 32 := by
  rw [recombineNat_eq_sum h]
  rw [inBounds_iff] at h
  omega

/-- The slices of the six fields, each at its place, add up to the word. -/
theorem recombineNat_decodeEvent (w : Word) : recombineNat (decodeEvent w).fields = w.toNat := by
  rw [recombineNat_eq_sum (DecodedEvent.fields_inBounds _), decodeEvent_fields]
  simp only [slice]
  have hlt := w.isLt
  omega

theorem recombine_decodeEvent (w : Word) : recombine (decodeEvent w).fields = .next w := by
  rw [recombine_inBounds (DecodedEvent.fields_inBounds _), recombineNat_decodeEvent, BitVec.ofNat_toNat,
    BitVec.setWidth_eq]

/-! ## Several blocks at once -/

theorem step_of_inputReady {s : State} (h : s.inputReady = true) : ∃ t, step s = .next t := by
  rcases step_cases s with ⟨w, -, -, hstep⟩ | ⟨hbad, -⟩
  · exact ⟨_, hstep⟩
  · obtain ⟨-, hlines⟩ := decodePort_error hbad
    rw [State.inputReady, hlines] at h
    cases h

theorem stepAll_of_inputReady {insts : List State} (h : ∀ s ∈ insts, s.inputReady = true) :
    ∃ insts', stepAll insts = .next insts' := by
  induction insts with
  | nil => exact ⟨[], rfl⟩
  | cons s insts ih =>
    obtain ⟨hs, hinsts⟩ := List.forall_mem_cons.mp h
    obtain ⟨t, ht⟩ := step_of_inputReady hs
    obtain ⟨ts, hts⟩ := ih hinsts
    exact ⟨t :: ts, by simp [stepAll, ht, hts]⟩

/-- In a joint step the block at each position takes its own step. -/
theorem stepAll_getElem? {insts insts' : List State} {k : Nat} {s : State} (h : stepAll insts = .next insts')
    (hk : insts[k]? = some s) : ∃ t, insts'[k]? = some t ∧ step s = .next t := by
  have hall := stepAll_next h
  obtain ⟨hlt, rfl⟩ := List.getElem?_eq_some_iff.mp hk
  have hlt' : k < insts'.length := hall.length_eq ▸ hlt
  exact ⟨insts'[k], List.getElem?_eq_getElem hlt', hall.get hlt hlt'⟩

/-! ## The obligations -/

/-- Settles O7: each byte is its slice, and a single word bit reaches the one byte that holds it. -/
theorem decodeDrivesBytesMostSignificantFirst : Obligations.DecodeDrivesBytesMostSignificantFirst := by
  intro w s
  refine ⟨_, exec_decode w s, byteOf_toNat 3 w, byteOf_toNat 2 w, byteOf_toNat 1 w, byteOf_toNat 0 w, rfl,
    ?zero, ?ones, ?ascending, ?single⟩
  case zero => rintro rfl; rfl
  case ones => rintro rfl; rfl
  case ascending => rintro rfl; rfl
  case single =>
    rintro k hk rfl j
    have hbyte : 3 - j.val = k / 8 ↔ j.val = 3 - k / 8 := by omega
    simp only [State.driveOutputs_bytes_o, decodeEvent, byteViewOf_get, byteOf_ofNat_two_pow _ hk, hbyte]
    split
    case isTrue => exact BitVec.toNat_twoPow_of_lt (Nat.mod_lt k (by decide))
    case isFalse => rfl

/-- Settles O8: the shifted word is the slice, whose bits are the word's bits 18 to 31. -/
theorem decodeDrivesAmplitude : Obligations.DecodeDrivesAmplitude := by
  intro w s
  refine ⟨_, exec_decode w s, ?shift, amplitudeOf_toNat w, ?maximum, Nat.le_of_lt_succ (amplitudeOf w).isLt,
    le_amplitudeOf_of_bit31, ?corner⟩
  case shift => exact (amplitudeOf_toNat w).trans (slice_from_bit31 w (by decide))
  case maximum =>
    rw [← amplitudeOf_eq_allOnes_iff, ← BitVec.toNat_inj]
    rfl
  case corner => rintro rfl; rfl

/-- Settles O9: mask and shift give the slice, and a field reads 0 of a word that has only its neighbours' bits. -/
theorem decodeDrivesPixelAndSensor : Obligations.DecodeDrivesPixelAndSensor := by
  intro w s
  refine ⟨_, exec_decode w s, ?x, ?y, ?ccd⟩
  case x =>
    have hneighbours : xCoordinateOf (w ^^^ 0x00040400) = xCoordinateOf w :=
      (xCoordinateOf_xor w _).trans BitVec.xor_zero
    have hmask : ((w &&& 0x0003F800) >>> 11).toNat = slice w 17 11 := OutPort.x_coordinate.mask_shift_toNat w
    refine ⟨xCoordinateOf_toNat w, (xCoordinateOf_toNat w).trans hmask.symm, Nat.le_of_lt_succ (xCoordinateOf w).isLt,
      ⟨_, exec_decode _ s, hneighbours⟩, ?_, ?_, ?_⟩ <;> (rintro rfl; rfl)
  case y =>
    have hneighbours : yCoordinateOf (w ^^^ 0x00000808) = yCoordinateOf w :=
      (yCoordinateOf_xor w _).trans BitVec.xor_zero
    have hmask : ((w &&& 0x000007F0) >>> 4).toNat = slice w 10 4 := OutPort.y_coordinate.mask_shift_toNat w
    refine ⟨yCoordinateOf_toNat w, (yCoordinateOf_toNat w).trans hmask.symm, Nat.le_of_lt_succ (yCoordinateOf w).isLt,
      ⟨_, exec_decode _ s, hneighbours⟩, ?_, ?_, ?_⟩ <;> (rintro rfl; rfl)
  case ccd =>
    have hmask : ((w &&& 0x0000000C) >>> 2).toNat = slice w 3 2 := OutPort.ccd_number.mask_shift_toNat w
    refine ⟨ccdNumberOf_toNat w, (ccdNumberOf_toNat w).trans hmask.symm, Nat.le_of_lt_succ (ccdNumberOf w).isLt,
      ?_, ?_, ?_⟩ <;> (rintro rfl; rfl)

/-- Settles O10: the flags are their slices, and DECODE's linearity shows what flipping one of their bits reaches. -/
theorem decodeDrivesFlagsAndIgnoresThem : Obligations.DecodeDrivesFlagsAndIgnoresThem := by
  intro w s
  have hfatal : ((w &&& 0x00000002) >>> 1).toNat = slice w 1 1 := OutPort.fatal_flag.mask_shift_toNat w
  have hwarning : (w &&& 0x00000001).toNat = slice w 0 0 := OutPort.warning_flag.mask_shift_toNat w
  refine ⟨_, exec_decode w s, fatalFlagOf_toNat w, (fatalFlagOf_toNat w).trans hfatal.symm,
    warningFlagOf_toNat w, (warningFlagOf_toNat w).trans hwarning.symm, rfl, rfl, rfl,
    ⟨_, exec_decode _ s, fatalFlagOf_flip_ne w, decodeEvent_flip_fatalFlag w⟩,
    ⟨_, exec_decode _ s, warningFlagOf_flip_ne w, decodeEvent_flip_warningFlag w⟩, ?_, ?_, ?_, ?_⟩
  · rintro rfl; exact ⟨rfl, rfl⟩
  · rintro rfl; exact ⟨rfl, rfl⟩
  · rintro rfl; exact ⟨rfl, rfl⟩
  · rintro rfl; rfl

/-- Settles O11: DECODE drives its event and nothing else, and the event is R108's slices. -/
theorem decodeAssignsAllOutputsAndNothingElse : Obligations.DecodeAssignsAllOutputsAndNothingElse := by
  intro w s
  rw [exec_decode, decodeEvent_eq_slices, State.driveOutputs]

/-- Settles O17: the formula's number fits a word, and the formula of the decoded fields is the word's number. -/
theorem recombineInvertsDecode : Obligations.RecombineInvertsDecode := by
  constructor
  · intro f hf
    exact ⟨_, recombine_inBounds hf, Nat.mod_eq_of_lt (recombineNat_lt hf)⟩
  · intro w s
    exact ⟨_, exec_decode w s, recombine_decodeEvent w⟩

/-- Settles O18: each bound is its port's width. -/
theorem decodedFieldsAreInBounds : Obligations.DecodedFieldsAreInBounds := by
  intro w s
  obtain ⟨ha, hx, hy, hc, hf, hw⟩ := (inBounds_iff _).mp (decodeEvent w).fields_inBounds
  exact ⟨_, exec_decode w s, ha, hx, hy, hc, hf, hw, fun b _ => Nat.le_of_lt_succ b.isLt⟩

/-- Settles O45: a joint step is each block's own step, and a single one sets its own position only. -/
theorem instancesDecodeIndependently : Obligations.InstancesDecodeIndependently := by
  refine ⟨?joint, fun _ => stepAll_of_inputReady, ?single⟩
  case joint =>
    intro insts insts' h
    exact ⟨(stepAll_next h).length_eq.symm, fun k s => stepAll_getElem? h⟩
  case single =>
    intro k insts insts' h
    obtain ⟨s, t, hk, hstep, rfl⟩ := stepAt_next h
    obtain ⟨hlt, -⟩ := List.getElem?_eq_some_iff.mp hk
    exact ⟨fun j hj => List.getElem?_set_ne hj.symm, s, t, hk, hstep, List.getElem?_set_self hlt⟩

end Sys2Proof.Machine
end

section
/-! PROOFS. Exceptions: the block has none, and the source's decode ends in a record or in PREP's error. -/

namespace Sys2Proof.Machine

/-! ## The block -/

/-- DECODE is the one instruction, and it is total (R140). -/
theorem exec_answers_next (i : Instr) (s : State) : ∃ t, exec i s = .next t := by
  cases i with
  | decode w => exact ⟨_, exec_decode w s⟩

theorem exec_ne_fault (i : Instr) (s : State) (f : Fault) : exec i s ≠ .fault f := by
  obtain ⟨t, ht⟩ := exec_answers_next i s
  simp [ht]

theorem step_ne_fault (s : State) (f : Fault) : step s ≠ .fault f := by
  rcases step_cases s with ⟨w, -, -, hstep⟩ | ⟨-, hstep⟩ <;> simp [hstep]

/-! ## The source's decode -/

/-- Once the host has presented a word, the step is that word's DECODE. -/
theorem step_present (w : Word) (s : State) :
    step (s.present w) = .next ((s.present w).holdStable.driveOutputs (decodeEvent w)) := by
  rw [step, State.present_word_i, decodePort_portOfWord]
  exact exec_decode w _

/-- A sample of settled outputs, with a word on the input port, reads them and changes nothing (R47). -/
theorem State.sample_of_settled {s : State} {w : Word} (hw : s.word_i = portOfWord w) (hs : s.settled = true) :
    s.sample = .next (s.event, s) := by
  simp [State.sample, hw, hs]

/-- If PREP raises its error, so does the source's decode, before anything is driven (R141). -/
theorem hostDecode_of_prep_fault {p : OorPolicy} {n : Numeric} {f : Fault} (h : prep p n = .fault f) (s : State) :
    hostDecode p n s = .fault f := by
  simp [hostDecode, h]

/-- If PREP gives a word, the source's decode ends in the word's record and leaves the settled ports. -/
theorem hostDecode_of_prep_next {p : OorPolicy} {n : Numeric} {w : Word} (h : prep p n = .next w) (s : State) :
    hostDecode p n s = .next (decodeEvent w, (s.present w).holdStable.driveOutputs (decodeEvent w)) := by
  have hword : ((s.present w).holdStable.driveOutputs (decodeEvent w)).word_i = portOfWord w :=
    s.present_word_i w
  simp only [hostDecode, h, step_present]
  exact State.sample_of_settled hword rfl

/-- PREP gives a word for every finite value that the policy accepts: all under WRAP, the domain's under ERROR. -/
theorem prep_of_accepted {p : OorPolicy} {n : Numeric} {i : Int} (hi : trunc? n = some i)
    (h : p = .wrap ∨ inDomain i = true) : prep p n = .next (reduceWord i) := by
  cases hd : inDomain i with
  | true => exact prep_inDomain p hi hd
  | false =>
    obtain rfl : p = .wrap := h.resolve_right (by simp [hd])
    exact prep_outside_wrap hi hd

/-! ## The obligations -/

/-- Settles O15: the one instruction answers a next state, and a step runs it or is refused. -/
theorem blockRaisesNoException : Obligations.BlockRaisesNoException :=
  ⟨fun w => exec_answers_next (.decode w), exec_ne_fault, step_ne_fault⟩

/-- Settles O42: PREP's two outcomes of a finite value, each carried through the source's decode. -/
theorem hostDecodeEndsInRecordOrError : Obligations.HostDecodeEndsInRecordOrError := by
  intro p n i s hi
  constructor
  · rintro ⟨rfl, hd⟩
    exact hostDecode_of_prep_fault (prep_outside_error hi hd) s
  · intro haccepted
    have hprep := prep_of_accepted hi haccepted
    exact ⟨_, _, hprep, hostDecode_of_prep_next hprep s, s.present_word_i _, State.driveOutputs_event _ _⟩

end Sys2Proof.Machine
end

section
/-! PROOFS. The decoder of lines: which lines it accepts, that it and the encoder are inverse, and the field masks. -/

namespace Sys2Proof

/-! ## Two-state lines -/

theorem Line.twoState_iff (l : Line) : l.twoState = true ↔ l = .low ∨ l = .high := by
  cases l <;> decide

theorem Line.twoState_eq_false_iff (l : Line) :
    l.twoState = false ↔ l = .undriven ∨ l = .unknown ∨ l = .highImpedance := by
  cases l <;> decide

theorem linesTwoState_iff (ls : List Line) : linesTwoState ls = true ↔ ∀ l ∈ ls, l = .low ∨ l = .high := by
  simp only [linesTwoState, List.all_eq_true, Line.twoState_iff]

theorem linesTwoState_eq_false_iff (ls : List Line) :
    linesTwoState ls = false ↔ ∃ l ∈ ls, l = .undriven ∨ l = .unknown ∨ l = .highImpedance := by
  simp only [linesTwoState, List.all_eq_false, Bool.not_eq_true, Line.twoState_eq_false_iff]

/-! ## What decoding lines answers, by its three outcomes -/

theorem decodeLines_eq_wrongWidth_iff (ls : List Line) :
    decodeLines ls = .error .wrongWidth ↔ ls.length ≠ 32 := by
  rcases decodeLines_cases ls with ⟨hlen, hd⟩ | ⟨hlen, -, hd⟩ | ⟨n, hlen, -, -, hd⟩ <;> simp [hlen, hd]

theorem decodeLines_eq_notTwoState_iff (ls : List Line) :
    decodeLines ls = .error .notTwoState ↔ ls.length = 32 ∧ linesTwoState ls = false := by
  rcases decodeLines_cases ls with ⟨hlen, hd⟩ | ⟨hlen, hlines, hd⟩ | ⟨n, hlen, hlines, -, hd⟩
  · simp [hlen, hd]
  · simp [hlen, hlines, hd]
  · simp [hlines, hd]

theorem decodeLines_isOk_iff (ls : List Line) :
    (∃ i, decodeLines ls = .ok i) ↔ ls.length = 32 ∧ linesTwoState ls = true := by
  rcases decodeLines_cases ls with ⟨hlen, hd⟩ | ⟨-, hlines, hd⟩ | ⟨n, hlen, hlines, -, hd⟩
  · simp [hlen, hd]
  · simp [hlines, hd]
  · simp [hlen, hlines, hd]

/-! ## Decoding and encoding -/

theorem decodeLines_encode (i : Instr) : decodeLines (encode i) = .ok i := by
  cases i with
  | decode w => exact decodePort_portOfWord w

/-- Lines that decode carry a number that fits a word, and a word's encoding is its number's lines. -/
theorem eq_encode_of_decodeLines {ls : List Line} {i : Instr} (h : decodeLines ls = .ok i) : ls = encode i := by
  rcases decodeLines_cases ls with ⟨-, hd⟩ | ⟨-, -, hd⟩ | ⟨n, hlen, -, hread, hd⟩
  · rw [hd] at h; cases h
  · rw [hd] at h; cases h
  · rw [hd] at h
    injection h with h
    obtain ⟨hlines, hlt⟩ := eq_linesOfNat_of_readLines ls n hread
    rw [hlen] at hlines hlt
    rw [← h, encode, BitVec.toNat_ofNat, Nat.mod_eq_of_lt hlt]
    exact hlines

/-- A table row's number, cut to its width, is the number of the word it presents (R8). -/
theorem decodeTableWord_eq {nbits : Nat} (hn : nbits ≤ 32) (w : Nat) :
    decodeTableWord nbits w = some (.decode (BitVec.ofNat 32 (w % 2 ^ nbits))) := by
  have hlt : w % 2 ^ nbits < 2 ^ 32 :=
    (Nat.mod_lt w (Nat.two_pow_pos nbits)).trans_le (Nat.pow_le_pow_right (by decide) hn)
  have henc : linesOfNat 32 (w % 2 ^ nbits) = encode (.decode (BitVec.ofNat 32 (w % 2 ^ nbits))) := by
    rw [encode, BitVec.toNat_ofNat, Nat.mod_eq_of_lt hlt]
  rw [decodeTableWord, if_pos hn, henc, decodeLines_encode]
  rfl

end Sys2Proof

namespace Sys2Proof.Machine

/-! ## The field masks -/

/-- A mask has exactly the word bits of its output. -/
theorem OutPort.mask_bit (p : OutPort) (k : Nat) :
    p.mask.getLsbD k = decide (p.low ≤ k ∧ k < p.low + p.width) := by
  have hle := p.low_add_width_le
  rw [OutPort.mask, BitVec.getLsbD_ofNat, Nat.testBit_mul_two_pow, Nat.testBit_two_pow_sub_one, Bool.eq_iff_iff]
  simp only [Bool.and_eq_true, decide_eq_true_eq]
  omega

/-- A bit within a field names that field (R61). -/
theorem fieldOfBit_eq {p : OutPort} {k : Nat} (hp : p.isField = true) (hlow : p.low ≤ k)
    (hhigh : k < p.low + p.width) : fieldOfBit k = p := by
  rw [← Nat.add_sub_of_le hlow]
  exact fieldOfBit_low_add hp (Nat.sub_lt_left_of_lt_add hlow hhigh)

theorem OutPort.mask_disjoint {p q : OutPort} (hp : p.isField = true) (hq : q.isField = true) (hpq : p ≠ q) :
    p.mask &&& q.mask = 0 := by
  apply BitVec.eq_of_getLsbD_eq
  intro k _
  by_contra hboth
  simp only [BitVec.ofNat_eq_ofNat, BitVec.getLsbD_zero, Bool.not_eq_false, BitVec.getLsbD_and, OutPort.mask_bit,
    Bool.and_eq_true, decide_eq_true_eq] at hboth
  obtain ⟨⟨hplow, hphigh⟩, hqlow, hqhigh⟩ := hboth
  exact hpq ((fieldOfBit_eq hp hplow hphigh).symm.trans (fieldOfBit_eq hq hqlow hqhigh))

/-! ## The obligations -/

/-- Settles O1: a word's lines read as the word's number. -/
theorem encodedInstructionDecodesBack : Obligations.EncodedInstructionDecodesBack := by
  intro i _
  refine ⟨?_, decodeLines_encode i⟩
  cases i with
  | decode w => exact Laws.EncodeWidth.decode w

/-- Settles O2: every instruction is well formed, and the lines are those of the number they read as. -/
theorem decodedLinesAreTheEncoding : Obligations.DecodedLinesAreTheEncoding := by
  intro ls i h
  cases i with
  | decode w => exact ⟨rfl, eq_encode_of_decodeLines h⟩

/-- Settles O3: the decoder's three outcomes by width and by two-state lines. -/
theorem linesRefusedExactlyWhenNotTwoState : Obligations.LinesRefusedExactlyWhenNotTwoState := by
  intro ls
  rw [decodeLines_eq_wrongWidth_iff, decodeLines_eq_notTwoState_iff, decodeLines_isOk_iff,
    linesTwoState_eq_false_iff, linesTwoState_iff]
  exact ⟨Iff.rfl, Iff.rfl, Iff.rfl⟩

/-- Settles O4: each pattern is written out and read line by line. -/
theorem writtenOutWordsDecode : Obligations.WrittenOutWordsDecode :=
  ⟨by decide, by decide, by decide⟩

/-- Settles O14: no word bit lies in two fields, and every constant is its mask's value. -/
theorem fieldMasksPartitionTheWord : Obligations.FieldMasksPartitionTheWord :=
  ⟨rfl, rfl, rfl, rfl, rfl, rfl, rfl, rfl, rfl, rfl, rfl, fun _ _ => OutPort.mask_disjoint, rfl⟩

end Sys2Proof.Machine
end

section
/-! PROOFS. DECODE's outputs together: the byte view against the word and the fields, and what flipping a word bit
reaches. -/

namespace Sys2Proof.Machine

/-! ## Every output as a piece of the word -/

/-- An output that reads consecutive word bits is that piece of the word. -/
theorem eq_extractLsb'_of_word_bits {n lo : Nat} {v : BitVec n} {w : Word}
    (hv : ∀ j, v.getLsbD j = (decide (j < n) && w.getLsbD (lo + j))) : v = w.extractLsb' lo n := by
  apply BitVec.eq_of_getLsbD_eq
  intro j _
  rw [hv, BitVec.getLsbD_extractLsb']

theorem amplitudeOf_eq_extractLsb' (w : Word) : amplitudeOf w = w.extractLsb' 18 14 :=
  eq_extractLsb'_of_word_bits (amplitudeOf_bit w)

theorem xCoordinateOf_eq_extractLsb' (w : Word) : xCoordinateOf w = w.extractLsb' 11 7 :=
  eq_extractLsb'_of_word_bits (xCoordinateOf_bit w)

theorem yCoordinateOf_eq_extractLsb' (w : Word) : yCoordinateOf w = w.extractLsb' 4 7 :=
  eq_extractLsb'_of_word_bits (yCoordinateOf_bit w)

theorem ccdNumberOf_eq_extractLsb' (w : Word) : ccdNumberOf w = w.extractLsb' 2 2 :=
  eq_extractLsb'_of_word_bits (ccdNumberOf_bit w)

theorem fatalFlagOf_eq_extractLsb' (w : Word) : fatalFlagOf w = w.extractLsb' 1 1 :=
  eq_extractLsb'_of_word_bits (fatalFlagOf_bit w)

theorem warningFlagOf_eq_extractLsb' (w : Word) : warningFlagOf w = w.extractLsb' 0 1 :=
  eq_extractLsb'_of_word_bits (warningFlagOf_bit_add w)

theorem byteOf_eq_extractLsb' (k : Nat) (w : Word) : byteOf k w = w.extractLsb' (8 * k) 8 :=
  eq_extractLsb'_of_word_bits (byteOf_bit k w)

/-- A piece of a piece is a piece. -/
theorem extractLsb'_of_extractLsb' {m : Nat} (w : BitVec m) {lo n start len : Nat} (h : start + len ≤ n) :
    (w.extractLsb' lo n).extractLsb' start len = w.extractLsb' (lo + start) len := by
  apply BitVec.eq_of_getLsbD_eq
  intro j hj
  have hin : start + j < n := by omega
  simp only [BitVec.getLsbD_extractLsb', hj, hin, decide_true, Bool.true_and, Nat.add_assoc]

/-! ## The byte view -/

/-- The bytes in index order, the most significant first, are the word (R111). -/
theorem byteOf_append (w : Word) : byteOf 3 w ++ byteOf 2 w ++ byteOf 1 w ++ byteOf 0 w = w := by
  simp only [byteOf_eq_extractLsb']
  rw [BitVec.extractLsb'_append_extractLsb'_eq_extractLsb' (by rfl),
    BitVec.extractLsb'_append_extractLsb'_eq_extractLsb' (by rfl),
    BitVec.extractLsb'_append_extractLsb'_eq_extractLsb' (by rfl)]
  exact BitVec.extractLsb'_eq_self

/-- R44's row of byte 0. -/
theorem byteOf_three_eq_fields (w : Word) : byteOf 3 w = (amplitudeOf w).extractLsb' 6 8 := by
  rw [amplitudeOf_eq_extractLsb', extractLsb'_of_extractLsb' w (by decide), byteOf_eq_extractLsb']

/-- R44's row of byte 1. -/
theorem byteOf_two_eq_fields (w : Word) :
    byteOf 2 w = (amplitudeOf w).extractLsb' 0 6 ++ (xCoordinateOf w).extractLsb' 5 2 := by
  rw [amplitudeOf_eq_extractLsb', xCoordinateOf_eq_extractLsb', extractLsb'_of_extractLsb' w (by decide),
    extractLsb'_of_extractLsb' w (by decide), BitVec.extractLsb'_append_extractLsb'_eq_extractLsb' (by rfl)]
  exact byteOf_eq_extractLsb' 2 w

/-- R44's row of byte 2. -/
theorem byteOf_one_eq_fields (w : Word) :
    byteOf 1 w = (xCoordinateOf w).extractLsb' 0 5 ++ (yCoordinateOf w).extractLsb' 4 3 := by
  rw [xCoordinateOf_eq_extractLsb', yCoordinateOf_eq_extractLsb', extractLsb'_of_extractLsb' w (by decide),
    extractLsb'_of_extractLsb' w (by decide), BitVec.extractLsb'_append_extractLsb'_eq_extractLsb' (by rfl)]
  exact byteOf_eq_extractLsb' 1 w

/-- R44's row of byte 3. -/
theorem byteOf_zero_eq_fields (w : Word) : byteOf 0 w =
    (yCoordinateOf w).extractLsb' 0 4 ++ ccdNumberOf w ++ fatalFlagOf w ++ warningFlagOf w := by
  rw [yCoordinateOf_eq_extractLsb', ccdNumberOf_eq_extractLsb', fatalFlagOf_eq_extractLsb',
    warningFlagOf_eq_extractLsb', extractLsb'_of_extractLsb' w (by decide),
    BitVec.extractLsb'_append_extractLsb'_eq_extractLsb' (by rfl),
    BitVec.extractLsb'_append_extractLsb'_eq_extractLsb' (by rfl),
    BitVec.extractLsb'_append_extractLsb'_eq_extractLsb' (by rfl)]
  exact byteOf_eq_extractLsb' 0 w

/-! ## The fields determine the word -/

/-- RECOMBINE takes the fields back to the word, so the fields tell words apart (R112). -/
theorem decodeEvent_fields_injective {w u : Word} (h : (decodeEvent w).fields = (decodeEvent u).fields) : w = u := by
  apply BitVec.eq_of_toNat_eq
  rw [← recombineNat_decodeEvent w, ← recombineNat_decodeEvent u, h]

/-! ## Flipping one word bit -/

/-- Flipping word bit k changes the word bit at k and no other. -/
theorem flip_bit_ne_iff (w : Word) {i k : Nat} (hk : k < 32) :
    (w ^^^ BitVec.ofNat 32 (2 ^ k)).getLsbD i ≠ w.getLsbD i ↔ i = k := by
  have hxor : ∀ a b : Bool, (a ^^ b) ≠ a ↔ b = true := by decide
  rw [BitVec.getLsbD_xor, hxor, BitVec.getLsbD_ofNat, Nat.testBit_two_pow, Bool.and_eq_true, decide_eq_true_eq,
    decide_eq_true_eq]
  omega

/-- An output bit follows the word bit at its place in the layout. -/
theorem OutPort.read_flip_ne_iff (p : OutPort) (w : Word) {j k : Nat} (hj : j < p.width) (hk : k < 32) :
    (p.read (decodeEvent (w ^^^ BitVec.ofNat 32 (2 ^ k)))).getLsbD j ≠ (p.read (decodeEvent w)).getLsbD j ↔
      p.low + j = k := by
  simp only [OutPort.read_bit, hj, decide_true, Bool.true_and]
  exact flip_bit_ne_iff w hk

/-- Exactly one field holds word bit k (R61). -/
theorem existsUnique_field_of_bit {k : Nat} (hk : k < 32) :
    ∃! p : OutPort, p.isField = true ∧ p.low ≤ k ∧ k < p.low + p.width :=
  ⟨fieldOfBit k, fieldOfBit_covers k hk, fun _ ⟨hp, hlow, hhigh⟩ => (fieldOfBit_eq hp hlow hhigh).symm⟩

/-- Word bit k is bit `k % 8` of byte `3 - k / 8` of the byte view. -/
theorem existsUnique_byte_of_bit {k : Nat} (hk : k < 32) :
    ∃! b : Fin 4, b.val = 3 - k / 8 ∧ OutPort.low (.byte b) + k % 8 = k := by
  refine ⟨⟨3 - k / 8, by omega⟩, ⟨rfl, ?_⟩, fun b ⟨hb, _⟩ => Fin.ext hb⟩
  simp only [OutPort.low]
  omega

/-! ## The obligations -/

/-- Settles O12: DECODE drives outputs only. -/
theorem decodeLeavesInputPortUnchanged : Obligations.DecodeLeavesInputPortUnchanged := by
  intro w s t h
  rw [exec_decode] at h
  injection h with h
  subst h
  exact ⟨s.driveOutputs_word_i _, s.driveOutputs_settled _, s.driveOutputs_draws _⟩

/-- Settles O19: each byte is its slice, and the bytes are adjacent pieces of the word. -/
theorem bytesReversedAreLittleEndianAndConcatenateToTheWord :
    Obligations.BytesReversedAreLittleEndianAndConcatenateToTheWord := by
  intro w s
  refine ⟨_, exec_decode w s, ?_, byteOf_append w⟩
  calc (byteViewOf w).toList.reverse.map BitVec.toNat
      = [(byteOf 0 w).toNat, (byteOf 1 w).toNat, (byteOf 2 w).toNat, (byteOf 3 w).toNat] := rfl
    _ = [slice w 7 0, slice w 15 8, slice w 23 16, slice w 31 24] := by simp only [byteOf_toNat]

/-- Settles O20: RECOMBINE is the inverse on both sides, and the bytes are a function of the word. -/
theorem decodeIsABijection : Obligations.DecodeIsABijection := by
  refine ⟨fun w u => decodeEvent_fields_injective, ?surjective, ?bytes⟩
  case surjective =>
    intro f hf
    exact ⟨_, recombine_inBounds hf, decodeEvent_recombineNat hf⟩
  case bytes =>
    intro w u h
    rw [decodeEvent_fields_injective h]

/-- Settles O21: an output bit follows one word bit, and each word bit stands in one field and in one byte. -/
theorem flippingAWordBitFlipsOneFieldBitAndOneByteBit :
    Obligations.FlippingAWordBitFlipsOneFieldBitAndOneByteBit := by
  intro w s k hk
  refine ⟨_, _, exec_decode w s, exec_decode _ s, ?_, existsUnique_field_of_bit hk, existsUnique_byte_of_bit hk⟩
  intro p j hj
  rw [State.driveOutputs_event, State.driveOutputs_event]
  exact p.read_flip_ne_iff w hj hk

/-- Settles O22: each row of R44's table joins adjacent pieces of the word to a byte. -/
theorem bytesHoldTheFieldBitsOfTheOverlapTable : Obligations.BytesHoldTheFieldBitsOfTheOverlapTable := by
  intro w s
  exact ⟨_, exec_decode w s, byteOf_three_eq_fields w, byteOf_two_eq_fields w, byteOf_one_eq_fields w,
    byteOf_zero_eq_fields w⟩

end Sys2Proof.Machine
end

section
/-! PROOFS. PREP: the integer part is the value rounded toward zero, which integers give a word, and
which values it refuses. -/

namespace Sys2Proof.Machine

/-! ## The integer part -/

/-- Cutting off the fraction of a magnitude is its floor: a magnitude is not negative. -/
theorem truncMagnitude_eq_floor (m : Nat) (r : Radix) (e : Int) :
    (truncMagnitude m r e : Int) = ⌊(m : ℚ) * (r.base : ℚ) ^ e⌋ := by
  cases e with
  | ofNat e =>
    have hvalue : (m : ℚ) * (r.base : ℚ) ^ Int.ofNat e = ((m * r.base ^ e : Nat) : ℚ) := by
      rw [Int.ofNat_eq_natCast, zpow_natCast]
      push_cast
      rfl
    rw [hvalue, Int.floor_natCast, truncMagnitude]
  | negSucc e =>
    have hvalue : (m : ℚ) * (r.base : ℚ) ^ Int.negSucc e = (m : ℚ) / ((r.base ^ (e + 1) : Nat) : ℚ) := by
      rw [zpow_negSucc, ← div_eq_mul_inv]
      push_cast
      rfl
    rw [hvalue, Rat.floor_natCast_div_natCast, truncMagnitude]
    rfl

/-- Rounding toward zero a value that is not positive is the floor of its magnitude, negated. -/
theorem roundTowardZero_neg {x : ℚ} (hx : 0 ≤ x) : (if 0 ≤ -x then ⌊-x⌋ else ⌈-x⌉) = -⌊x⌋ := by
  split
  case isTrue hneg =>
    obtain rfl : x = 0 := le_antisymm (neg_nonneg.mp hneg) hx
    simp
  case isFalse => exact Int.ceil_neg

/-! ## Which integers give a word -/

theorem reduceWord_eq_iff (i j : Int) : reduceWord i = reduceWord j ↔ i % 4294967296 = j % 4294967296 := by
  rw [← BitVec.toNat_inj, ← Int.natCast_inj, reduceWord_toNat, reduceWord_toNat]

/-- The preimages of a word in the domain (R86). -/
theorem reduceWord_eq_word_iff {i : Int} (hd : inDomain i = true) (w : Word) :
    reduceWord i = w ↔ i = w.toNat ∨ (2147483648 ≤ w.toNat ∧ i = (w.toNat : Int) - 4294967296) := by
  have hw := w.isLt
  have hword := reduceWord_toNat_of_inDomain hd
  obtain ⟨hlow, hhigh⟩ := (inDomain_iff i).mp hd
  rw [← BitVec.toNat_inj, ← Int.natCast_inj, hword]
  split <;> omega

theorem prep_integer_eq_next_iff {i : Int} (p : OorPolicy) (hd : inDomain i = true) (w : Word) :
    prep p (.integer i) = .next w ↔ reduceWord i = w := by
  rw [prep_integer_inDomain p hd, Host.Outcome.next.injEq]

theorem inDomain_word (w : Word) : inDomain w.toNat = true := by
  have hw := w.isLt
  rw [inDomain_iff]
  omega

/-! ## When PREP faults -/

/-- PREP's one fault, by the exits of R82. -/
theorem prep_eq_fault_iff (p : OorPolicy) (n : Numeric) (f : Fault) : prep p n = .fault f ↔
    f = .outOfRangeInput ∧ p = .error ∧ ∃ i, trunc? n = some i ∧ (i < -2147483648 ∨ 4294967295 < i) := by
  simp only [← inDomain_eq_false_iff]
  cases hi : trunc? n with
  | none => simp [prep_nonfinite p hi]
  | some i =>
    cases hd : inDomain i with
    | true => simp [prep_inDomain p hi hd, hd]
    | false =>
      cases p with
      | wrap => simp [prep_outside_wrap hi hd]
      | error => cases f with | outOfRangeInput => simp [prep_outside_error hi hd, hd]

/-- A refusal of PREP is the source's decode's too (R142). -/
theorem hostDecode_of_prep_refused {p : OorPolicy} {n : Numeric} {r : Refusal} (h : prep p n = .refused r) (s : State) :
    hostDecode p n s = .refused r := by
  simp [hostDecode, h]

/-- The source's decode faults only where PREP does: the block raises nothing (R140, R141). -/
theorem hostDecode_eq_fault_iff (p : OorPolicy) (n : Numeric) (f : Fault) (s : State) :
    hostDecode p n s = .fault f ↔ prep p n = .fault f := by
  cases h : prep p n with
  | next w => simp [hostDecode_of_prep_next h]
  | fault g => simp [hostDecode_of_prep_fault h]
  | refused r => simp [hostDecode_of_prep_refused h]

/-! ## The obligations -/

/-- Settles O38: a float's sign is put back on the floor of its magnitude. -/
theorem truncationRoundsTowardZero : Obligations.TruncationRoundsTowardZero := by
  intro n
  cases n with
  | integer i => simp [trunc?, numericValue?]
  | float negative m r e =>
    have hx : 0 ≤ (m : ℚ) * (r.base : ℚ) ^ e := mul_nonneg (Nat.cast_nonneg m) (zpow_nonneg (Nat.cast_nonneg _) e)
    cases negative with
    | false => simp [trunc?, numericValue?, truncMagnitude_eq_floor, hx]
    | true =>
      have hneg := roundTowardZero_neg hx
      simpa [trunc?, numericValue?, truncMagnitude_eq_floor] using hneg.symm
  | nan | posInf | negInf => rfl

/-- Settles O39: none of the three has an integer part. -/
theorem nonFiniteValuesAreRefused : Obligations.NonFiniteValuesAreRefused := by
  intro p n hn
  have htrunc : trunc? n = none := by rcases hn with rfl | rfl | rfl <;> rfl
  have hprep := prep_nonfinite p htrunc
  exact ⟨hprep, hostDecode_of_prep_refused hprep⟩

/-- Settles O40: in the domain PREP is reduction modulo 2^32 under both policies. -/
theorem prepPreimagesOfEveryWord : Obligations.PrepPreimagesOfEveryWord := by
  intro p
  refine ⟨?same, ?preimages, ?every⟩
  case same =>
    intro i j hi hj
    rw [prep_integer_inDomain p hj, prep_integer_eq_next_iff p hi, reduceWord_eq_iff]
  case preimages =>
    intro w i hi
    rw [prep_integer_eq_next_iff p hi, reduceWord_eq_word_iff hi]
  case every =>
    intro w
    have hd := inDomain_word w
    exact ⟨hd, (prep_integer_eq_next_iff p hd w).mpr ((reduceWord_eq_word_iff hd w).mpr (.inl rfl))⟩

/-- Settles O44: both integers reduce to the word of all ones, whose decode is written out. -/
theorem minusOneDecodesAsAllOnes : Obligations.MinusOneDecodesAsAllOnes := by
  intro p s
  have hminus : prep p (.integer (-1)) = .next 0xFFFFFFFF := prep_integer_inDomain p rfl
  have hmax : prep p (.integer 4294967295) = .next 0xFFFFFFFF := prep_integer_inDomain p rfl
  have hevent : decodeEvent 0xFFFFFFFF = ⟨16383, 127, 127, 3, 1, 1, #v[255, 255, 255, 255]⟩ := by decide
  rw [← hevent]
  exact ⟨_, hostDecode_of_prep_next hminus s, hostDecode_of_prep_next hmax s⟩

end Sys2Proof.Machine
end

section
/-! PROOFS. The block's step, and the invariant of the ports along every host program. -/

namespace Sys2Proof.Machine

/-! ## A step, by what the input port presents -/

/-- The step of a word on the input port. -/
theorem step_of_word {s : State} {w : Word} (h : s.word_i = portOfWord w) :
    step s = .next (s.holdStable.driveOutputs (decodeEvent w)) := by
  rw [step, h, decodePort_portOfWord]
  exact exec_decode w _

theorem step_refused_of_decodePort {s : State} {e : DecodeError} (h : decodePort s.word_i = .error e) :
    step s = .refused (.inputNotDecodable e) := by
  simp [step, h]

theorem sample_refused_of_decodePort {s : State} {e : DecodeError} (h : decodePort s.word_i = .error e) :
    s.sample = .refused (.inputNotDecodable e) := by
  simp [State.sample, h]

theorem step_next_iff_inputReady (s : State) : (∃ t, step s = .next t) ↔ s.inputReady = true := by
  refine ⟨?_, step_of_inputReady⟩
  rintro ⟨t, h⟩
  obtain ⟨w, hw, -⟩ := step_next h
  rw [State.inputReady, hw]
  exact decodePort_ok (decodePort_portOfWord w)

/-- A port has 32 lines, so the only reason for it to be refused is a line that is not two-state. -/
theorem decodePort_of_not_inputReady {s : State} (h : s.inputReady = false) :
    decodePort s.word_i = .error .notTwoState :=
  (decodeLines_eq_notTwoState_iff _).mpr ⟨by simp, h⟩

/-- A step settles the outputs, so a further one finds them as it would drive them (R47). -/
theorem step_idempotent {s t : State} (h : step s = .next t) : step t = .next t := by
  obtain ⟨w, hw, rfl⟩ := step_next h
  have hport : (s.holdStable.driveOutputs (decodeEvent w)).word_i = portOfWord w := hw
  rw [step_of_word hport]
  rfl

/-! ## The invariant of the ports -/

/-- Settled outputs that are the decode of the word on the input port are consistent. -/
theorem State.consistent_of_event {s : State} {w : Word} (hw : s.word_i = portOfWord w)
    (he : s.event = decodeEvent w) : s.consistent = true := by
  simp [State.consistent_of_word hw, he]

/-- What consistency says of settled ports: there is a word on the input, and the outputs are its decode. -/
theorem State.word_of_consistent_settled {s : State} (hc : s.consistent = true) (hs : s.settled = true) :
    ∃ w, s.word_i = portOfWord w ∧ s.event = decodeEvent w := by
  cases hd : decodePort s.word_i with
  | error e => simp [State.consistent, hd, hs] at hc
  | ok i =>
    cases i with
    | decode w =>
      have hw := eq_portOfWord_of_decodePort hd
      exact ⟨w, hw, by simpa [State.consistent_of_word hw, hs] using hc⟩

theorem step_consistent {s t : State} (h : step s = .next t) : t.consistent = true := by
  obtain ⟨w, hw, rfl⟩ := step_next h
  exact State.consistent_of_event (w := w) hw rfl

theorem State.drive_settled_of_change {v : Vector Line 32} {s : State} (h : v ≠ s.word_i) :
    (s.drive v).settled = false := by
  rw [State.drive_change h]
  rfl

theorem State.drive_consistent {s : State} (hc : s.consistent = true) (v : Vector Line 32) :
    (s.drive v).consistent = true := by
  by_cases hv : v = s.word_i
  · subst hv
    rwa [State.drive_same]
  · exact State.consistent_of_unsettled (State.drive_settled_of_change hv)

/-- Only an early sample changes the block, and it leaves the outputs unsettled. -/
theorem State.sample_next {s t : State} {e : DecodedEvent} (h : s.sample = .next (e, t)) :
    t = s ∨ s.settled = false ∧ t = s.drawOutputs := by
  rcases s.sample_cases with ⟨w, -, -, hs⟩ | ⟨w, -, hunsettled, hs⟩ | ⟨-, hs⟩
  · rw [hs] at h
    injection h with h
    exact .inl (Prod.ext_iff.mp h).2.symm
  · rw [hs] at h
    injection h with h
    exact .inr ⟨hunsettled, (Prod.ext_iff.mp h).2.symm⟩
  · rw [hs] at h; cases h

theorem State.sample_consistent {s t : State} {e : DecodedEvent} (hc : s.consistent = true)
    (h : s.sample = .next (e, t)) : t.consistent = true := by
  rcases State.sample_next h with rfl | ⟨hunsettled, rfl⟩
  · exact hc
  · exact State.consistent_of_unsettled hunsettled

theorem hostStep_consistent {p : OorPolicy} {op : HostOp} {h h' : HostState} (hc : h.block.consistent = true)
    (hs : hostStep p op h = .next h') : h'.block.consistent = true := by
  rcases hostStep_block hs with hsame | ⟨v, hdrive⟩ | hstep | ⟨e, hsample⟩
  · rwa [hsame]
  · rw [hdrive]
    exact State.drive_consistent hc v
  · exact step_consistent hstep
  · exact State.sample_consistent hc hsample

/-- A program that answers a next state goes through its first operation's. -/
theorem hostRun_cons {p : OorPolicy} {op : HostOp} {ops : List HostOp} {h h' : HostState}
    (hr : hostRun p (op :: ops) h = .next h') : ∃ m, hostStep p op h = .next m ∧ hostRun p ops m = .next h' := by
  cases hs : hostStep p op h <;> simp [hostRun, hs] at hr
  exact ⟨_, rfl, hr⟩

theorem hostRun_consistent {p : OorPolicy} {ops : List HostOp} {h h' : HostState} (hc : h.block.consistent = true)
    (hr : hostRun p ops h = .next h') : h'.block.consistent = true := by
  induction ops generalizing h with
  | nil =>
    injection hr with hr
    rwa [← hr]
  | cons op ops ih =>
    obtain ⟨m, hs, hrest⟩ := hostRun_cons hr
    exact ih (hostStep_consistent hc hs) hrest

/-! ## The obligations -/

/-- Settles O25: whatever a step answers is the decode of the word it found. -/
theorem stepKeepsPortsConsistent : Obligations.StepKeepsPortsConsistent := by
  intro s t h
  have hready := (step_next_iff_inputReady t).mp ⟨t, step_idempotent h⟩
  have hconsistent := step_consistent h
  obtain ⟨w, -, rfl⟩ := step_next h
  exact ⟨hconsistent, rfl, hready, rfl, rfl⟩

/-- Settles O26: by induction on the operations, each of which keeps the invariant. -/
theorem hostProgramsKeepPortsConsistent : Obligations.HostProgramsKeepPortsConsistent :=
  fun _ _ _ _ => hostRun_consistent

/-- Settles O23: the two outcomes of decoding the input port. -/
theorem stepRunsTheInstructionOnTheInputPort : Obligations.StepRunsTheInstructionOnTheInputPort := by
  refine ⟨?_, fun s e => step_refused_of_decodePort⟩
  intro s i hi _
  cases i with
  | decode w => exact step_of_word (eq_portOfWord_of_decodePort hi)

/-- Settles O24: the decoder and the driven port read the table row as one word. -/
theorem fetchedTableWordIsWhatStepRuns : Obligations.FetchedTableWordIsWhatStepRuns := by
  intro s nbits w hn
  exact ⟨_, decodeTableWord_eq hn w, rfl, step_present _ s⟩

/-- Settles O27: nothing is settled, and an undriven line is not two-state. -/
theorem resetPortsAreConsistentAndUndriven : Obligations.ResetPortsAreConsistentAndUndriven := by
  refine ⟨State.consistent_of_unsettled rfl, rfl, ?undriven, ?refused⟩
  case undriven =>
    intro l hl
    exact List.eq_of_mem_replicate (n := 32) (by simpa [State.reset] using hl)
  case refused => exact step_refused_of_decodePort (decodePort_of_not_inputReady (by decide))

/-- Settles O28: a step answers exactly on a ready input, and the decoder refuses every other. -/
theorem onlyTwoStateInputsAreAdmitted : Obligations.OnlyTwoStateInputsAreAdmitted := by
  intro s
  rw [step_next_iff_inputReady, State.inputReady]
  refine ⟨linesTwoState_iff _, ?_⟩
  rintro ⟨l, hl, hlow, hhigh⟩
  have hnot : s.inputReady = false := by
    rw [← Bool.not_eq_true, State.inputReady, linesTwoState_iff]
    exact fun hall => (hall l hl).elim hlow hhigh
  have hport := decodePort_of_not_inputReady hnot
  exact ⟨step_refused_of_decodePort hport, sample_refused_of_decodePort hport⟩

/-- Settles O29: a step drives the decode of the word on the input port. -/
theorem settledOutputsDependOnTheInputPortAlone : Obligations.SettledOutputsDependOnTheInputPortAlone := by
  intro s s' t hports h
  obtain ⟨w, hw, rfl⟩ := step_next h
  exact ⟨_, step_of_word (hports.symm.trans hw), rfl, rfl, hports.symm⟩

/-- Settles O30: a step leaves the outputs as the next one drives them. -/
theorem steppingAgainChangesNothing : Obligations.SteppingAgainChangesNothing :=
  fun _ _ => step_idempotent

/-- Settles O31: by the invariant settled outputs are one word's decode, and each is that word's slice. -/
theorem settledOutputsAreOfOneWord : Obligations.SettledOutputsAreOfOneWord := by
  intro p ops h h' hc hr hs
  obtain ⟨w, hw, he⟩ := State.word_of_consistent_settled (hostRun_consistent hc hr) hs
  refine ⟨w, hw, fun q => ?_⟩
  rw [he, q.read_toNat]

end Sys2Proof.Machine
end

section
/-! PROOFS. The host's interactions: driving, sampling, the source's decode as a program, and several blocks. -/

namespace Sys2Proof.Machine

/-! ## Sampling -/

theorem State.samplePort_of_sample {s t : State} {e : DecodedEvent} (h : s.sample = .next (e, t)) (p : OutPort) :
    s.samplePort p = .next (p.read e, t) := by
  simp [State.samplePort, h]

/-- A sample after a step answers the decode of the word it found, and changes nothing. -/
theorem sample_of_step {s t : State} {w : Word} (hw : s.word_i = portOfWord w) (h : step s = .next t) :
    t.sample = .next (decodeEvent w, t) := by
  rw [step_of_word hw] at h
  injection h with h
  rw [← h]
  exact State.sample_of_settled hw rfl

theorem State.sample_of_unsettled {s : State} {w : Word} (hw : s.word_i = portOfWord w) (hs : s.settled = false) :
    s.sample = .next (freeEvent s.draws, s.drawOutputs) := by
  simp [State.sample, hw, hs]

/-! ## Steps and samples of consistent, settled ports -/

/-- A step finds settled outputs as it would drive them (R24). -/
theorem step_eq_self_of_consistent_settled {s t : State} (hc : s.consistent = true) (hs : s.settled = true)
    (h : step s = .next t) : t = s := by
  obtain ⟨w, hw, he⟩ := State.word_of_consistent_settled hc hs
  rw [step_of_word hw] at h
  injection h with h
  rw [← h]
  exact State.eq_of_ports rfl he.symm hs.symm rfl

theorem sample_eq_self_of_settled {s t : State} {e : DecodedEvent} (hs : s.settled = true)
    (h : s.sample = .next (e, t)) : t = s := by
  rcases State.sample_next h with hsame | ⟨hunsettled, -⟩
  · exact hsame
  · rw [hs] at hunsettled; cases hunsettled

/-! ## Host operations never fault -/

theorem keepWord_ne_fault (h : HostState) (o : Host.Outcome Word Fault Refusal) (f : Fault) :
    h.keepWord o ≠ .fault f := by
  cases o <;> simp [HostState.keepWord]

/-- PREP's error is kept as a value, and nothing else a host does can fault. -/
theorem hostStep_ne_fault (p : OorPolicy) (op : HostOp) (h : HostState) (f : Fault) : hostStep p op h ≠ .fault f := by
  cases op with
  | prep n => exact keepWord_ne_fault h _ f
  | recombine r => exact keepWord_ne_fault h _ f
  | present w | driveLines v | systemReset => simp [hostStep]
  | presentNewest => simp only [hostStep]; split <;> simp
  | recombineNewest =>
    simp only [hostStep]
    split
    · exact keepWord_ne_fault h _ f
    · simp
  | hold =>
    rcases step_cases h.block with ⟨w, -, -, hb⟩ | ⟨-, hb⟩ <;> simp [hostStep, hb]
  | sample =>
    rcases h.block.sample_cases with ⟨w, -, -, hb⟩ | ⟨w, -, -, hb⟩ | ⟨-, hb⟩ <;> simp [hostStep, hb]
  | samplePort port =>
    rcases h.block.sample_cases with ⟨w, -, -, hb⟩ | ⟨w, -, -, hb⟩ | ⟨-, hb⟩ <;>
      simp [hostStep, State.samplePort, hb]

/-! ## One of several blocks -/

theorem stepAt_of_step {k : Nat} {insts : List State} {s t : State} (hk : insts[k]? = some s) (hs : step s = .next t) :
    stepAt k insts = .next (insts.set k t) := by
  simp [stepAt, hk, hs]

/-- Changing one position and setting another commute. -/
theorem modify_set_comm {α : Type} {j k : Nat} (hjk : j ≠ k) (f : α → α) (a : α) (l : List α) :
    (l.modify k f).set j a = (l.set j a).modify k f := by
  apply List.ext_getElem?
  intro i
  simp only [List.getElem?_set, List.getElem?_modify, List.length_modify]
  by_cases hi : j = i
  · subst hi
    simp only [hjk.symm, if_true, if_false]
    split <;> simp
  · simp [hi]

/-! ## The obligations -/

/-- Settles O32: settled outputs are read as they stand, and consistency says they are the word's decode. -/
theorem settledSampleReadsTheDecodeAndChangesNothing : Obligations.SettledSampleReadsTheDecodeAndChangesNothing := by
  intro s w hc hs hw
  have he : s.event = decodeEvent w := by simpa [State.consistent_of_word hw, hs] using hc
  have hsample : s.sample = .next (decodeEvent w, s) := he ▸ State.sample_of_settled hw hs
  exact ⟨hsample, fun p => ⟨_, State.samplePort_of_sample hsample p, p.read_toNat w⟩⟩

/-- Settles O33: an early sample is the draw it makes. -/
theorem earlySampleIsAFreeDraw : Obligations.EarlySampleIsAFreeDraw := by
  intro s w hw hs
  exact ⟨_, State.sample_of_unsettled hw hs, s.drawOutputs_event, s.drawOutputs_word_i, hs, s.drawOutputs_draws⟩

/-- Settles O34: driving other lines makes a draw, and a step decodes whatever word is driven. -/
theorem inputChangeUnsettlesUntilHeldStable : Obligations.InputChangeUnsettlesUntilHeldStable := by
  intro s v
  refine ⟨?same, ?change, ?held⟩
  case same => rintro rfl; exact s.drive_same
  case change =>
    intro hv
    rw [State.drive_change hv]
    exact ⟨rfl, rfl, rfl, rfl⟩
  case held =>
    rintro w rfl
    exact ⟨_, step_present w s, rfl, s.present_word_i w, rfl⟩

/-- Settles O35: presenting a word decides the step, and a system reset is the identity on the ports. -/
theorem decodeHoldsFromPowerUpAndAcrossSystemReset : Obligations.DecodeHoldsFromPowerUpAndAcrossSystemReset := by
  intro w
  have hstep := step_present w State.reset
  have hsample := sample_of_step (State.present_word_i w _) hstep
  exact ⟨_, hstep, State.driveOutputs_event _ _, hstep, hsample, step_idempotent hstep⟩

/-- Settles O36: each thing an operation can do to the block leaves it alone if the input port stays. -/
theorem settledOutputsChangeOnlyWithTheInput : Obligations.SettledOutputsChangeOnlyWithTheInput := by
  intro p op h h' hc hs hop hport
  rcases hostStep_block hop with hsame | ⟨v, hdrive⟩ | hstep | ⟨e, hsample⟩
  · exact hsame
  · obtain rfl : v = h.block.word_i := by rwa [hdrive, State.drive_word_i] at hport
    rw [hdrive, State.drive_same]
  · exact step_eq_self_of_consistent_settled hc hs hstep
  · exact sample_eq_self_of_settled hs hsample

/-- Settles O41: PREP's exits give the fault's condition, and a host program keeps the error instead of a word. -/
theorem outOfRangeInputIsRaisedByPrepOnlyAndTouchesNothing :
    Obligations.OutOfRangeInputIsRaisedByPrepOnlyAndTouchesNothing := by
  refine ⟨prep_eq_fault_iff, hostDecode_eq_fault_iff, ?program, hostStep_ne_fault⟩
  case program =>
    intro n i h hi hout
    have hprep := prep_outside_error hi ((inDomain_eq_false_iff i).mpr hout)
    simp [hostRun, hostStep, hprep, HostState.keepWord]

/-- Settles O43: the program's four operations are the four stages of the source's decode. -/
theorem hostProgramRunsTheSourcesDecode : Obligations.HostProgramRunsTheSourcesDecode := by
  intro p n w s vs hprep
  have hsample := sample_of_step (s.present_word_i w) (step_present w s)
  refine ⟨_, hostDecode_of_prep_next hprep s, ?_⟩
  simp [hostRun, hostStep, hprep, HostState.keepWord, step_present, hsample]

/-- Settles O46: each step sets its own position, and positions apart commute. -/
theorem decodesOfDifferentInstancesCommute : Obligations.DecodesOfDifferentInstancesCommute := by
  intro j k insts a b hjk ha hb
  obtain ⟨s, t, hj, hs, rfl⟩ := stepAt_next ha
  obtain ⟨s', t', hk, hs', rfl⟩ := stepAt_next hb
  refine ⟨⟨(insts.set j t).set k t', ?_, ?_⟩, fun v => ?_⟩
  · exact stepAt_of_step (by rwa [List.getElem?_set_ne hjk]) hs'
  · rw [List.set_comm t t' hjk]
    exact stepAt_of_step (by rwa [List.getElem?_set_ne hjk.symm]) hs
  · rw [driveAt, driveAt, ← modify_set_comm hjk]
    exact stepAt_of_step (by simp [hjk.symm, hj]) hs

end Sys2Proof.Machine
end
